-- ==== Sys2Proof/Word.lean ====
section
/-! DEFINITION. The widths of the machine (00_scope.md R9, R11): bytes, 16-bit words, 12-bit addresses and
4-bit indices. Every value is unsigned. -/

namespace Sys2Proof

/-- A memory cell, a general register or a timer (10_state.md R30, R31). -/
abbrev Byte := BitVec 8

/-- An instruction word, the index register, the program counter or a stack entry (10_state.md R30). -/
abbrev Word := BitVec 16

/-- The field NNN of an instruction word (30_encoding.md R91, R92). -/
abbrev Addr := BitVec 12

/-- A value of four bits that numbers a register, a key, a stack entry or a count of rows. Its addition and
subtraction are modulo 16 (00_scope.md R9, row SP_WIDTH). -/
abbrev Nibble := Fin 16

end Sys2Proof
end

