-- ==== Sys2Proof/Config.lean ====
section
/-! DEFINITION. What the spec leaves to an implementation or to the environment (00_scope.md R10): the type of
the parameter SECONDARY_KEY_0E and the free value of a cycle, its random draw. The VALUES this machine takes for
the parameters stand where a repair may mend them: `secondaryKey0E` in Decode.lean, `font` and `drawYMod` in
Machine/Parameters.lean. PIXEL_BITS has no fixed value; it is an argument of the readout in
Machine/Environment.lean. -/

namespace Sys2Proof

/-- The two values of the parameter SECONDARY_KEY_0E: which bits select within the families 0x0 and 0xE
(30_encoding.md R95, R103). -/
inductive SecondaryKey
  /-- The low byte w[7:0]: the spec's default. -/
  | byte
  /-- The low nibble w[3:0]: the alternative of R103. -/
  | nibble
  deriving DecidableEq, Repr

/-- The random draw of each cycle, by the cycle's number (40_cycle_engine.md R128). DESIGN CHOICE of form
(notes/assumptions/2.md): a constant without a body, so no claim can rest on any value it takes. Safe. -/
opaque Config.rand : Nat → Byte

end Sys2Proof
end

