-- ==== Sys2Proof/Syntax.lean ====
section
/-! DEFINITION. The instructions: one constructor for each of the 34 rows of opcode_table.json
(30_encoding.md R97, R98, R104). Operands carry the names of R91: x, y, n are nibbles, nn a byte, nnn an address.

A constructor also carries the nibbles of its word that no handler reads (R96), marked IGNORED below, so that
decoding loses no bit of the word (DESIGN CHOICE, notes/assumptions/20.md, safe). `exec` drops them. -/

namespace Sys2Proof

/-- An instruction of the machine. -/
inductive Instr
  /-- CLS. x and y are IGNORED; with the default secondary key y is 0xE, a part of the key. -/
  | cls (x y : Nibble)
  /-- RET. x and y are IGNORED; with the default secondary key y is 0xE, a part of the key. -/
  | ret (x y : Nibble)
  /-- JP addr. -/
  | jp (nnn : Addr)
  /-- CALL addr. -/
  | call (nnn : Addr)
  /-- SE Vx, byte. -/
  | seByte (x : Nibble) (nn : Byte)
  /-- SNE Vx, byte. -/
  | sneByte (x : Nibble) (nn : Byte)
  /-- SE Vx, Vy. n is IGNORED. -/
  | seReg (x y n : Nibble)
  /-- LD Vx, byte. -/
  | ldByte (x : Nibble) (nn : Byte)
  /-- ADD Vx, byte. -/
  | addByte (x : Nibble) (nn : Byte)
  /-- LD Vx, Vy. -/
  | ldReg (x y : Nibble)
  /-- OR Vx, Vy. -/
  | orReg (x y : Nibble)
  /-- AND Vx, Vy. -/
  | andReg (x y : Nibble)
  /-- XOR Vx, Vy. -/
  | xorReg (x y : Nibble)
  /-- ADD Vx, Vy. -/
  | addReg (x y : Nibble)
  /-- SUB Vx, Vy. -/
  | subReg (x y : Nibble)
  /-- SHR Vx. y is IGNORED. -/
  | shr (x y : Nibble)
  /-- SUBN Vx, Vy. -/
  | subnReg (x y : Nibble)
  /-- SHL Vx. y is IGNORED. -/
  | shl (x y : Nibble)
  /-- SNE Vx, Vy. n is IGNORED. -/
  | sneReg (x y n : Nibble)
  /-- LD I, addr. -/
  | ldI (nnn : Addr)
  /-- JP V0, addr. -/
  | jpV0 (nnn : Addr)
  /-- RND Vx, byte. -/
  | rnd (x : Nibble) (nn : Byte)
  /-- DRW Vx, Vy, nibble. -/
  | drw (x y n : Nibble)
  /-- SKP Vx. y is IGNORED; with the default secondary key y is 0x9, a part of the key. -/
  | skp (x y : Nibble)
  /-- SKNP Vx. y is IGNORED; with the default secondary key y is 0xA, a part of the key. -/
  | sknp (x y : Nibble)
  /-- LD Vx, DT. -/
  | ldVxDt (x : Nibble)
  /-- LD Vx, K. -/
  | ldVxK (x : Nibble)
  /-- LD DT, Vx. -/
  | ldDtVx (x : Nibble)
  /-- LD ST, Vx. -/
  | ldStVx (x : Nibble)
  /-- ADD I, Vx. -/
  | addI (x : Nibble)
  /-- LD F, Vx. -/
  | ldF (x : Nibble)
  /-- LD B, Vx. -/
  | ldB (x : Nibble)
  /-- LD [I], Vx. -/
  | ldMemVx (x : Nibble)
  /-- LD Vx, [I]. -/
  | ldVxMem (x : Nibble)
  deriving DecidableEq, Repr

end Sys2Proof
end

