-- ==== Sys2Proof/WellFormed.lean ====
section
/-! DEFINITION. Which instruction terms are instructions of the machine under a choice of the secondary key of
the families 0x0 and 0xE (30_encoding.md R95, R98, R103). Operand ranges are in the types. What is left to check
is the second nibble of the two-level dispatch: with the low byte as key, the y of CLS, RET, SKP and SKNP is a
part of the key; with the low nibble as key, it is free. -/

namespace Sys2Proof

/-- `key.admits k y`: the nibble y of a family 0 or E word agrees with the high nibble k of the word's byte key. -/
def SecondaryKey.admits (key : SecondaryKey) (k y : Nibble) : Bool :=
  match key with
  | .byte => y == k
  | .nibble => true

/-- The term is an instruction of the machine with that secondary key. -/
def Instr.wellFormedWith (key : SecondaryKey) : Instr → Bool
  | .cls _ y => key.admits 0xE y
  | .ret _ y => key.admits 0xE y
  | .jp _ => true
  | .call _ => true
  | .seByte _ _ => true
  | .sneByte _ _ => true
  | .seReg _ _ _ => true
  | .ldByte _ _ => true
  | .addByte _ _ => true
  | .ldReg _ _ => true
  | .orReg _ _ => true
  | .andReg _ _ => true
  | .xorReg _ _ => true
  | .addReg _ _ => true
  | .subReg _ _ => true
  | .shr _ _ => true
  | .subnReg _ _ => true
  | .shl _ _ => true
  | .sneReg _ _ _ => true
  | .ldI _ => true
  | .jpV0 _ => true
  | .rnd _ _ => true
  | .drw _ _ _ => true
  | .skp _ y => key.admits 0x9 y
  | .sknp _ y => key.admits 0xA y
  | .ldVxDt _ => true
  | .ldVxK _ => true
  | .ldDtVx _ => true
  | .ldStVx _ => true
  | .addI _ => true
  | .ldF _ => true
  | .ldB _ => true
  | .ldMemVx _ => true
  | .ldVxMem _ => true

end Sys2Proof
end

