-- ==== Sys2Proof/Decode.lean ====
section
/-! DEFINITION. The decoder, total on every word and on every list of bytes, and the encoder. The decoder follows
the two-level dispatch of 30_encoding.md R94, R95, R97 and R98; a word no handler is registered for is rejected
by the name of its family (R100). That such a word runs as a no-op is the cycle's business
(40_cycle_engine.md R124), not the decoder's. The bit patterns are the spec's decision D1
(notes/assumptions/7.md). -/

namespace Sys2Proof

/-! ## Fields of a word -/

/-- The unsigned field w[hi:lo] (00_scope.md R11). -/
def bits (w : Word) (hi lo : Nat) : Nat := w.toNat / 2 ^ lo % 2 ^ (hi + 1 - lo)

/-- A field of four bits as a nibble. -/
def nibbleAt (w : Word) (lo : Nat) : Nibble := Fin.ofNat 16 (bits w (lo + 3) lo)

/-- The primary nibble w[15:12] (30_encoding.md R91). -/
def fieldOp (w : Word) : Nibble := nibbleAt w 12

/-- The field X, w[11:8] (R91). -/
def fieldX (w : Word) : Nibble := nibbleAt w 8

/-- The field Y, w[7:4] (R91). -/
def fieldY (w : Word) : Nibble := nibbleAt w 4

/-- The field N, w[3:0] (R91). -/
def fieldN (w : Word) : Nibble := nibbleAt w 0

/-- The field NNN, w[11:0] (R91). -/
def fieldNNN (w : Word) : Addr := BitVec.ofNat 12 (bits w 11 0)

/-- The field NN, w[7:0] (R91). -/
def fieldNN (w : Word) : Byte := BitVec.ofNat 8 (bits w 7 0)

/-- The word of two bytes in the order of a fetch: the first byte is bits 15:8 (20_memory.md R65). -/
def wordOfBytes (first second : Byte) : Word := BitVec.ofNat 16 (first.toNat * 256 + second.toNat)

/-- The byte of a word that lies at the lower address, bits 15:8 (20_memory.md R65). -/
def highByte (w : Word) : Byte := BitVec.ofNat 8 (bits w 15 8)

/-- The byte of a word that lies at the higher address, bits 7:0 (20_memory.md R65). -/
def lowByte (w : Word) : Byte := BitVec.ofNat 8 (bits w 7 0)

/-! ## The decoder -/

/-- Why the decoder gives no instruction. -/
inductive Unregistered
  /-- A word of family 0x0 whose key selects no handler (30_encoding.md R100). Safe: the spec says so. -/
  | family0
  /-- A word of family 0x8 whose key selects no handler (R100). Safe. -/
  | family8
  /-- A word of family 0xE whose key selects no handler (R100). Safe. -/
  | familyE
  /-- A word of family 0xF whose key selects no handler (R100). Safe. -/
  | familyF
  /-- Fewer than two bytes were given; no fetch does this, since it always reads two (20_memory.md R67). Safe. -/
  | truncated
  deriving DecidableEq, Repr

/-- The parameter SECONDARY_KEY_0E of this machine: its default, the low byte (30_encoding.md R95,
notes/assumptions/3.md). -/
def secondaryKey0E : SecondaryKey := .byte

/-- The term is an instruction of this machine. -/
def Instr.wellFormed (i : Instr) : Bool := i.wellFormedWith secondaryKey0E

/-- Secondary table 0 (30_encoding.md R98; R103 for the nibble key). -/
def decodeFamily0 (key : SecondaryKey) (w : Word) : Except Unregistered Instr :=
  match key with
  | .byte =>
    match (fieldNN w).toNat with
    | 0xE0 => .ok (.cls (fieldX w) (fieldY w))
    | 0xEE => .ok (.ret (fieldX w) (fieldY w))
    | _ => .error .family0
  | .nibble =>
    match (fieldN w).val with
    | 0x0 => .ok (.cls (fieldX w) (fieldY w))
    | 0xE => .ok (.ret (fieldX w) (fieldY w))
    | _ => .error .family0

/-- Secondary table 8, keyed by the low nibble (30_encoding.md R95, R98). -/
def decodeFamily8 (w : Word) : Except Unregistered Instr :=
  match (fieldN w).val with
  | 0x0 => .ok (.ldReg (fieldX w) (fieldY w))
  | 0x1 => .ok (.orReg (fieldX w) (fieldY w))
  | 0x2 => .ok (.andReg (fieldX w) (fieldY w))
  | 0x3 => .ok (.xorReg (fieldX w) (fieldY w))
  | 0x4 => .ok (.addReg (fieldX w) (fieldY w))
  | 0x5 => .ok (.subReg (fieldX w) (fieldY w))
  | 0x6 => .ok (.shr (fieldX w) (fieldY w))
  | 0x7 => .ok (.subnReg (fieldX w) (fieldY w))
  | 0xE => .ok (.shl (fieldX w) (fieldY w))
  | _ => .error .family8

/-- Secondary table E (30_encoding.md R98; R103 for the nibble key). -/
def decodeFamilyE (key : SecondaryKey) (w : Word) : Except Unregistered Instr :=
  match key with
  | .byte =>
    match (fieldNN w).toNat with
    | 0x9E => .ok (.skp (fieldX w) (fieldY w))
    | 0xA1 => .ok (.sknp (fieldX w) (fieldY w))
    | _ => .error .familyE
  | .nibble =>
    match (fieldN w).val with
    | 0xE => .ok (.skp (fieldX w) (fieldY w))
    | 0x1 => .ok (.sknp (fieldX w) (fieldY w))
    | _ => .error .familyE

/-- Secondary table F, keyed by the low byte (30_encoding.md R95, R98). -/
def decodeFamilyF (w : Word) : Except Unregistered Instr :=
  match (fieldNN w).toNat with
  | 0x07 => .ok (.ldVxDt (fieldX w))
  | 0x0A => .ok (.ldVxK (fieldX w))
  | 0x15 => .ok (.ldDtVx (fieldX w))
  | 0x18 => .ok (.ldStVx (fieldX w))
  | 0x1E => .ok (.addI (fieldX w))
  | 0x29 => .ok (.ldF (fieldX w))
  | 0x33 => .ok (.ldB (fieldX w))
  | 0x55 => .ok (.ldMemVx (fieldX w))
  | 0x65 => .ok (.ldVxMem (fieldX w))
  | _ => .error .familyF

/-- The decoder for a choice of the secondary key (30_encoding.md R94, R97). -/
def decodeWith (key : SecondaryKey) (w : Word) : Except Unregistered Instr :=
  match (fieldOp w).val with
  | 0x0 => decodeFamily0 key w
  | 0x1 => .ok (.jp (fieldNNN w))
  | 0x2 => .ok (.call (fieldNNN w))
  | 0x3 => .ok (.seByte (fieldX w) (fieldNN w))
  | 0x4 => .ok (.sneByte (fieldX w) (fieldNN w))
  | 0x5 => .ok (.seReg (fieldX w) (fieldY w) (fieldN w))
  | 0x6 => .ok (.ldByte (fieldX w) (fieldNN w))
  | 0x7 => .ok (.addByte (fieldX w) (fieldNN w))
  | 0x8 => decodeFamily8 w
  | 0x9 => .ok (.sneReg (fieldX w) (fieldY w) (fieldN w))
  | 0xA => .ok (.ldI (fieldNNN w))
  | 0xB => .ok (.jpV0 (fieldNNN w))
  | 0xC => .ok (.rnd (fieldX w) (fieldNN w))
  | 0xD => .ok (.drw (fieldX w) (fieldY w) (fieldN w))
  | 0xE => decodeFamilyE key w
  | _ => decodeFamilyF w

/-- The decoder of this machine. -/
def decodeWord (w : Word) : Except Unregistered Instr := decodeWith secondaryKey0E w

/-- The decoder on bytes in address order: the instruction and the bytes after it. Every instruction has two
bytes (30_encoding.md R90). -/
def decodeBytes : List Byte → Except Unregistered (Instr × List Byte)
  | first :: second :: rest =>
    match decodeWord (wordOfBytes first second) with
    | .ok i => .ok (i, rest)
    | .error r => .error r
  | _ => .error .truncated

/-! ## The encoder -/

/-- The word op ++ X ++ Y ++ N (30_encoding.md R91). -/
def packXYN (op x y n : Nibble) : Word :=
  BitVec.ofNat 16 (op.val * 4096 + x.val * 256 + y.val * 16 + n.val)

/-- The word op ++ X ++ NN (R91). -/
def packXNN (op x : Nibble) (nn : Byte) : Word := BitVec.ofNat 16 (op.val * 4096 + x.val * 256 + nn.toNat)

/-- The word op ++ NNN (R91). -/
def packNNN (op : Nibble) (nnn : Addr) : Word := BitVec.ofNat 16 (op.val * 4096 + nnn.toNat)

/-- The word of an instruction (30_encoding.md R97, R98). -/
def Instr.encode : Instr → Word
  | .cls x y => packXYN 0x0 x y 0x0
  | .ret x y => packXYN 0x0 x y 0xE
  | .jp nnn => packNNN 0x1 nnn
  | .call nnn => packNNN 0x2 nnn
  | .seByte x nn => packXNN 0x3 x nn
  | .sneByte x nn => packXNN 0x4 x nn
  | .seReg x y n => packXYN 0x5 x y n
  | .ldByte x nn => packXNN 0x6 x nn
  | .addByte x nn => packXNN 0x7 x nn
  | .ldReg x y => packXYN 0x8 x y 0x0
  | .orReg x y => packXYN 0x8 x y 0x1
  | .andReg x y => packXYN 0x8 x y 0x2
  | .xorReg x y => packXYN 0x8 x y 0x3
  | .addReg x y => packXYN 0x8 x y 0x4
  | .subReg x y => packXYN 0x8 x y 0x5
  | .shr x y => packXYN 0x8 x y 0x6
  | .subnReg x y => packXYN 0x8 x y 0x7
  | .shl x y => packXYN 0x8 x y 0xE
  | .sneReg x y n => packXYN 0x9 x y n
  | .ldI nnn => packNNN 0xA nnn
  | .jpV0 nnn => packNNN 0xB nnn
  | .rnd x nn => packXNN 0xC x nn
  | .drw x y n => packXYN 0xD x y n
  | .skp x y => packXYN 0xE x y 0xE
  | .sknp x y => packXYN 0xE x y 0x1
  | .ldVxDt x => packXNN 0xF x 0x07#8
  | .ldVxK x => packXNN 0xF x 0x0A#8
  | .ldDtVx x => packXNN 0xF x 0x15#8
  | .ldStVx x => packXNN 0xF x 0x18#8
  | .addI x => packXNN 0xF x 0x1E#8
  | .ldF x => packXNN 0xF x 0x29#8
  | .ldB x => packXNN 0xF x 0x33#8
  | .ldMemVx x => packXNN 0xF x 0x55#8
  | .ldVxMem x => packXNN 0xF x 0x65#8

/-- The two bytes of an instruction in address order (20_memory.md R65). -/
def Instr.encodeBytes (i : Instr) : List Byte := [highByte i.encode, lowByte i.encode]

/-! ## The host's entry -/

/-- What the decoder reads from an instruction whose bits are w, numbered with bit 0 the least significant bit of
the one 16-bit word; bits from nbits on are 0. The bytes are laid out big-endian, as the machine stores them. -/
def decodeTableWord (nbits w : Nat) : Option Instr :=
  let word : Word := BitVec.ofNat 16 (w % 2 ^ nbits)
  match decodeBytes [highByte word, lowByte word] with
  | .ok (i, _) => some i
  | .error _ => none

end Sys2Proof
end

