-- ==== Sys2Proof/Machine/Parameters.lean ====
section
/-! DEFINITION. The values this machine takes for the parameters FONT and DRAW_Y_MOD (00_scope.md R10). -/

namespace Sys2Proof.Machine

/-- The glyphs of the hexadecimal digits 0 to 7, five bytes each (20_memory.md R63). Glyph 0 is the source's; the
others are the spec's default of FONT (notes/assumptions/5.md). -/
def fontLow : List Byte :=
  [0xF0#8, 0x90#8, 0x90#8, 0x90#8, 0xF0#8] ++ [0x20#8, 0x60#8, 0x20#8, 0x20#8, 0x70#8] ++
  [0xF0#8, 0x10#8, 0xF0#8, 0x80#8, 0xF0#8] ++ [0xF0#8, 0x10#8, 0xF0#8, 0x10#8, 0xF0#8] ++
  [0x90#8, 0x90#8, 0xF0#8, 0x10#8, 0x10#8] ++ [0xF0#8, 0x80#8, 0xF0#8, 0x10#8, 0xF0#8] ++
  [0xF0#8, 0x80#8, 0xF0#8, 0x90#8, 0xF0#8] ++ [0xF0#8, 0x10#8, 0x20#8, 0x40#8, 0x40#8]

/-- The glyphs of the hexadecimal digits 8 to F (20_memory.md R63). -/
def fontHigh : List Byte :=
  [0xF0#8, 0x90#8, 0xF0#8, 0x90#8, 0xF0#8] ++ [0xF0#8, 0x90#8, 0xF0#8, 0x10#8, 0xF0#8] ++
  [0xF0#8, 0x90#8, 0xF0#8, 0x90#8, 0x90#8] ++ [0xE0#8, 0x90#8, 0xE0#8, 0x90#8, 0xE0#8] ++
  [0xF0#8, 0x80#8, 0x80#8, 0x80#8, 0xF0#8] ++ [0xE0#8, 0x90#8, 0x90#8, 0x90#8, 0xE0#8] ++
  [0xF0#8, 0x80#8, 0xF0#8, 0x80#8, 0xF0#8] ++ [0xF0#8, 0x80#8, 0xF0#8, 0x80#8, 0x80#8]

/-- The parameter FONT: the 80 bytes of the glyphs, in the order of their digits (20_memory.md R63). -/
def font : List Byte := fontLow ++ fontHigh

/-- The parameter DRAW_Y_MOD: the source's literal 64 (43_display.md R196, notes/assumptions/4.md). -/
def drawYMod : Nat := 64

end Sys2Proof.Machine
end

