-- ==== Sys2Proof/Machine/Memory.lean ====
section
/-! DEFINITION. The memory image: 4096 byte cells (20_memory.md R60), as the list of the cells that differ from
their contents at construction, in one canonical form. Addresses here are already reduced modulo 4096;
`State.readByte` and `State.writeByte` in Ops.lean do the reduction of R62. -/

namespace Sys2Proof.Machine

/-- The number of cells (00_scope.md R9, MEM_SIZE). -/
def memSize : Nat := 4096

/-- The cells that differ from `initialByte`, by rising address. -/
abbrev Memory := List Host.Cell

/-- What a cell holds at construction, which is what an unlisted address reads as: the font from 0x000, zero
elsewhere (10_state.md R47, 20_memory.md R64). -/
def initialByte (a : Nat) : Byte := font.getD a 0#8

/-- The byte at an address. -/
def Memory.read : Memory → Nat → Byte
  | [], a => initialByte a
  | (k, b) :: m, a => if k = a then b else Memory.read m a

/-- A cell in front of a list, left out where it holds what its address reads as unlisted. -/
def Memory.cons (a : Nat) (b : Byte) (m : Memory) : Memory := if b = initialByte a then m else (a, b) :: m

/-- The memory with a byte stored at an address. -/
def Memory.write : Memory → Nat → Byte → Memory
  | [], a, b => Memory.cons a b []
  | (k, c) :: m, a, b =>
    if a < k then Memory.cons a b ((k, c) :: m)
    else if a = k then Memory.cons a b m
    else (k, c) :: Memory.write m a b

/-- The canonical form, for a list whose addresses must be at least lo: addresses strictly rising and below
4096, and no cell listed with the byte it reads as unlisted. -/
def Memory.wfFrom : Nat → Memory → Bool
  | _, [] => true
  | lo, (k, b) :: m => decide (lo ≤ k) && decide (k < memSize) && decide (b ≠ initialByte k) && Memory.wfFrom (k + 1) m

/-- The memory is in canonical form. -/
def Memory.wf (m : Memory) : Bool := Memory.wfFrom 0 m

end Sys2Proof.Machine
end

