-- ==== Sys2Proof/Machine/State.lean ====
section
/-! DEFINITION. The state of the machine, exactly the record of 10_state.md R30 with the model's own counter of
random draws, and its value at construction (10_state.md R47). -/

namespace Sys2Proof.Machine

/-- The framebuffer: 32 rows of 64 cells, true meaning lit (10_state.md R43). Cell FB[x][y] of the spec is
column x of row y. -/
abbrev Framebuffer := Vector (Vector Bool 64) 32

/-- The state of the machine. -/
structure State where
  /-- M, the memory image (R30, 20_memory.md R60). -/
  mem : Memory
  /-- V0 to VF (R31); VF is the only flag (R32, R44). -/
  v : Vector Byte 16
  /-- I, the index register (R37). -/
  i : Word
  /-- The program counter (R33); while a handler runs it holds pc_next (R34). -/
  pc : Word
  /-- SP, modulo 16 (R39). -/
  sp : Nibble
  /-- Stack[0] to Stack[15], apart from memory (R38). -/
  stack : Vector Word 16
  /-- The delay timer (R40). -/
  dt : Byte
  /-- The sound timer (R41). -/
  st : Byte
  /-- The key latch, written by the environment only (R42). -/
  keys : Vector Bool 16
  /-- The framebuffer (R43). -/
  fb : Framebuffer
  /-- The model's own: how many cycles have taken their random draw (40_cycle_engine.md R128,
  notes/assumptions/2.md). -/
  draws : Nat
  deriving DecidableEq, Repr

/-- Why the machine stops with a fault: never. The machine has no exception, trap or error
(60_exceptions.md R250, R251; 40_cycle_engine.md R129), so there is no constructor. Safe and exact. -/
inductive Fault
  deriving DecidableEq, Repr

/-- Why the model gives an instruction no meaning. -/
inductive Refusal
  /-- Raised by an arm of `exec` whose instruction has no meaning yet. No arm raises it: every instruction has
  its meaning. Safe. -/
  | notModelled (mnemonic : String)
  deriving DecidableEq, Repr

/-- The machine right after construction (10_state.md R47, 70_reset_and_hazards.md R280): memory zero but for the
font, pc at 0x200, everything else zero, released or unlit (the spec's decision D4, notes/assumptions/1.md). -/
def State.reset : State where
  mem := []
  v := Vector.replicate 16 0x00#8
  i := 0x0000#16
  pc := 0x0200#16
  sp := 0
  stack := Vector.replicate 16 0x0000#16
  dt := 0x00#8
  st := 0x00#8
  keys := Vector.replicate 16 false
  fb := Vector.replicate 32 (Vector.replicate 64 false)
  draws := 0

end Sys2Proof.Machine
end

