-- ==== Sys2Proof/Machine/Ops.lean ====
section
/-! DEFINITION. The named operations over registers, memory, stack, keys and framebuffer, and the parts of a cycle
that stand around a handler (00_scope.md R12; 40_cycle_engine.md R120). The machine has no exceptions
(60_exceptions.md R250 to R256), so there is no operation that takes one and none that returns from one. -/

namespace Sys2Proof.Machine

/-- What a handler answers. -/
abbrev Result := Host.Outcome State Fault Refusal

/-! ## Registers -/

/-- V[x] (00_scope.md R12). -/
def State.reg (s : State) (x : Nibble) : Byte := s.v[x]

/-- V[x] <- b (R12). -/
def State.setReg (s : State) (x : Nibble) (b : Byte) : State := { s with v := s.v.set x.val b x.isLt }

/-- I <- a (R12); the word's addition is modulo 65536. -/
def State.setIndex (s : State) (a : Word) : State := { s with i := a }

/-- pc <- a, reduced modulo 4096 as every write of pc is (10_state.md R33, notes/assumptions/8.md). -/
def State.setPc (s : State) (a : Word) : State := { s with pc := a % 4096#16 }

/-- SP <- p, modulo 16 (10_state.md R39). -/
def State.setSp (s : State) (p : Nibble) : State := { s with sp := p }

/-- Stack[j] (R12). -/
def State.stackAt (s : State) (j : Nibble) : Word := s.stack[j]

/-- Stack[j] <- a (R12). -/
def State.setStackAt (s : State) (j : Nibble) (a : Word) : State :=
  { s with stack := s.stack.set j.val a j.isLt }

/-- DT <- b (R12). -/
def State.setDt (s : State) (b : Byte) : State := { s with dt := b }

/-- ST <- b (R12). -/
def State.setSt (s : State) (b : Byte) : State := { s with st := b }

/-- Keys[k] (R12). -/
def State.key (s : State) (k : Nibble) : Bool := s.keys[k]

/-! ## Memory -/

/-- MemRead(a, 1): the byte at a mod 4096 (00_scope.md R12, 20_memory.md R62). -/
def State.readByte (s : State) (a : Nat) : Byte := s.mem.read (a % memSize)

/-- MemWrite(a, 1, b): stores b at a mod 4096 (00_scope.md R12, 20_memory.md R62). -/
def State.writeByte (s : State) (a : Nat) (b : Byte) : State := { s with mem := s.mem.write (a % memSize) b }

/-- Stores a list of bytes at rising addresses from a. -/
def State.writeBytes (s : State) (a : Nat) : List Byte → State
  | [] => s
  | b :: bs => State.writeBytes (s.writeByte a b) (a + 1) bs

/-- The address I + k, not yet reduced: the one addressing mode of data accesses (20_memory.md R62,
45_index_memory.md). -/
def State.indexed (s : State) (k : Nat) : Nat := s.i.toNat + k

/-! ## The registers V0 to VX as a block -/

/-- The register numbers 0 to x in order, x included (45_index_memory.md R234, R235). -/
def regsUpTo (x : Nibble) : List Nibble := (List.finRange 16).filter (fun k => k ≤ x)

/-- M[I+k] <- V[k] for each k of a list, in its order. -/
def State.storeRegs (s : State) : List Nibble → State
  | [] => s
  | k :: ks => State.storeRegs (s.writeByte (s.indexed k.val) (s.reg k)) ks

/-- V[k] <- M[I+k] for each k of a list, in its order. -/
def State.loadRegs (s : State) : List Nibble → State
  | [] => s
  | k :: ks => State.loadRegs (s.setReg k (s.readByte (s.indexed k.val))) ks

/-! ## The framebuffer -/

/-- FB[x][y]; a cell off the grid reads unlit. -/
def Framebuffer.get (fb : Framebuffer) (x y : Nat) : Bool :=
  if h : x < 64 ∧ y < 32 then (fb[y]'h.2)[x]'h.1 else false

/-- FB[x][y] <- not FB[x][y]; a cell off the grid is dropped (43_display.md R193). -/
def Framebuffer.toggle (fb : Framebuffer) (x y : Nat) : Framebuffer :=
  if h : x < 64 ∧ y < 32 then
    fb.set y ((fb[y]'h.2).set x (!((fb[y]'h.2)[x]'h.1)) h.1) h.2
  else fb

/-- Every cell unlit (43_display.md R190). -/
def Framebuffer.blank : Framebuffer := Vector.replicate 32 (Vector.replicate 64 false)

/-- FB[x][y] of a state (00_scope.md R12). -/
def State.pixel (s : State) (x y : Nat) : Bool := s.fb.get x y

/-- FB <- fb. -/
def State.setFb (s : State) (fb : Framebuffer) : State := { s with fb := fb }

/-- A framebuffer while a sprite is drawn, and whether a lit cell has been turned off so far. -/
structure Canvas where
  /-- The framebuffer drawn on. -/
  fb : Framebuffer
  /-- The variable collision of 43_display.md R191. -/
  collision : Bool
  deriving DecidableEq, Repr

/-- A set sprite bit at column x, row y: toggles an on-screen cell and notes whether it was lit; an off-screen
pixel is dropped (43_display.md R191, R193). -/
def Canvas.plot (c : Canvas) (x y : Nat) : Canvas :=
  if x < 64 ∧ y < 32 then ⟨c.fb.toggle x y, c.collision || c.fb.get x y⟩ else c

/-- The pixel of column offset k in a sprite row: bit 7 − k, so bit 7 is leftmost (43_display.md R192,
notes/assumptions/12.md). -/
def rowPixel (row : Byte) (k : Nat) : Bool := row.getLsbD (7 - k)

/-- Draws one sprite row at (x0, y): the loop over c of 43_display.md R191. -/
def Canvas.drawRow (c : Canvas) (x0 y : Nat) (row : Byte) : Canvas :=
  (List.range 8).foldl (fun c k => if rowPixel row k then c.plot (x0 + k) y else c) c

/-- Draws n sprite rows from (x0, y0), row r being the byte at I + r: the loop over r of 43_display.md R191. -/
def State.drawRows (s : State) (x0 y0 n : Nat) : Canvas :=
  (List.range n).foldl (fun c r => c.drawRow x0 (y0 + r) (s.readByte (s.indexed r))) ⟨s.fb, false⟩

/-! ## The parts of a cycle -/

/-- Fetch: the big-endian word at pc and pc + 1 (40_cycle_engine.md R121). -/
def State.fetchWord (s : State) : Word := wordOfBytes (s.readByte s.pc.toNat) (s.readByte (s.pc.toNat + 1))

/-- The instruction at pc, or the name of the family that has no handler for the word (R123). -/
def State.fetchInstr (s : State) : Except Unregistered Instr := decodeWord s.fetchWord

/-- Advance: pc <- pc + 2, before dispatch (40_cycle_engine.md R122). -/
def State.advance (s : State) : State := s.setPc (s.pc + 2#16)

/-- One count of a timer, floored at zero (40_cycle_engine.md R125). -/
def tickTimer (b : Byte) : Byte := if b = 0#8 then 0#8 else b - 1#8

/-- The timer tick: DT, then ST, each by its own count (40_cycle_engine.md R125). -/
def State.tickTimers (s : State) : State := (s.setDt (tickTimer s.dt)).setSt (tickTimer s.st)

/-- The cycle's random draw (40_cycle_engine.md R128): a free value. -/
def State.rand (s : State) : Byte := Config.rand s.draws

/-- The next cycle takes another draw (R128): the model's own counter. -/
def State.nextDraw (s : State) : State := { s with draws := s.draws + 1 }

/-- What a cycle does after the handler. -/
def State.endCycle (s : State) : State := s.tickTimers.nextDraw

/-- The handler step of an unregistered combination: no state changes (40_cycle_engine.md R124). -/
def execUnregistered (_ : Unregistered) (s : State) : Host.Outcome State Fault Refusal := .next s

/-- The answer of a cycle from the answer of its handler. -/
def finishCycle : Result → Result
  | .next s => .next s.endCycle
  | .fault f => .fault f
  | .refused r => .refused r

end Sys2Proof.Machine
end

