-- ==== Sys2Proof/Machine/Flags.lean ====
section
/-! DEFINITION. Every flag the machine computes, and how it is written. The only flag register is VF
(10_state.md R32, R44). -/

namespace Sys2Proof.Machine

/-- A flag as the value 0 or 1 (10_state.md R32). -/
def flagByte (b : Bool) : Byte := if b then 1#8 else 0#8

/-- The number of VF (00_scope.md R9, FLAG_REG). -/
def flagReg : Nibble := 0xF

/-- Carry of an addition: the unmasked sum exceeds 255 (42_alu.md R167). -/
def carry (a b : Byte) : Bool := decide (a.toNat + b.toNat > 255)

/-- NOT-borrow of a subtraction: minuend ≥ subtrahend (42_alu.md R168, R169). -/
def notBorrow (minuend subtrahend : Byte) : Bool := decide (minuend.toNat ≥ subtrahend.toNat)

/-- The bit a right shift by one shifts out (42_alu.md R170). -/
def shiftedOutRight (a : Byte) : Bool := a.getLsbD 0

/-- The bit a left shift by one shifts out (42_alu.md R171). -/
def shiftedOutLeft (a : Byte) : Bool := a.getLsbD 7

/-- VF <- flag (10_state.md R32). -/
def State.setFlag (s : State) (b : Bool) : State := s.setReg flagReg (flagByte b)

/-- V[x] <- result, and after it VF <- flag, so that VF ends holding the flag when x is 0xF (42_alu.md R160,
notes/assumptions/9.md). -/
def State.setRegThenFlag (s : State) (x : Nibble) (result : Byte) (flag : Bool) : State :=
  (s.setReg x result).setFlag flag

end Sys2Proof.Machine
end

