-- ==== Sys2Proof/Machine/Operands.lean ====
section
/-! DEFINITION. Every operand form (30_encoding.md R92, R93): how a handler reads the values its fields name. X and
Y name general registers (`State.reg`); immediates are unsigned and unscaled; the index register is implicit in
every access to memory. -/

namespace Sys2Proof.Machine

/-- The address NNN as it stands (30_encoding.md R92). -/
def addrOperand (nnn : Addr) : Word := nnn.setWidth 16

/-- A register's value where an address or the index register is computed. -/
def State.regWord (s : State) (x : Nibble) : Word := (s.reg x).setWidth 16

/-- The key VX names: VX masked to 4 bits (44_keys_timers.md R210). -/
def State.keyOperand (s : State) (x : Nibble) : Nibble := Fin.ofNat 16 (s.reg x).toNat

/-- The least pressed key (44_keys_timers.md R213). -/
def State.firstKey (s : State) : Option Nibble := (List.finRange 16).find? (fun k => s.key k)

/-- The start column of a sprite: VX mod 64 (43_display.md R191). -/
def State.spriteX (s : State) (x : Nibble) : Nat := (s.reg x).toNat % 64

/-- The start row of a sprite: VY mod DRAW_Y_MOD (43_display.md R191, R196). -/
def State.spriteY (s : State) (yMod : Nat) (y : Nibble) : Nat := (s.reg y).toNat % yMod

/-- The hundreds digit (45_index_memory.md R233). -/
def hundreds (v : Byte) : Byte := v / 100#8

/-- The tens digit (45_index_memory.md R233). -/
def tens (v : Byte) : Byte := v / 10#8 % 10#8

/-- The units digit (45_index_memory.md R233). -/
def units (v : Byte) : Byte := v % 10#8

end Sys2Proof.Machine
end

