-- ==== Sys2Proof/Machine/Alu.lean ====
section
/-! DEFINITION. The handlers of 42_alu.md: the immediate load and add, the nine family-8 operations, RND. Each
reads its operands first, then writes VX, and last writes its flag, if it has one (R160). -/

namespace Sys2Proof.Machine

/-- LD Vx, byte (R161). -/
def execLdByte (x : Nibble) (nn : Byte) (s : State) : Host.Outcome State Fault Refusal := .next (s.setReg x nn)

/-- ADD Vx, byte: modulo 256, no flag (R162). -/
def execAddByte (x : Nibble) (nn : Byte) (s : State) : Host.Outcome State Fault Refusal :=
  .next (s.setReg x (s.reg x + nn))

/-- LD Vx, Vy (R163). -/
def execLdReg (x y : Nibble) (s : State) : Host.Outcome State Fault Refusal := .next (s.setReg x (s.reg y))

/-- OR Vx, Vy: VF is not reset (R164). -/
def execOrReg (x y : Nibble) (s : State) : Host.Outcome State Fault Refusal :=
  .next (s.setReg x (s.reg x ||| s.reg y))

/-- AND Vx, Vy: VF is not reset (R165). -/
def execAndReg (x y : Nibble) (s : State) : Host.Outcome State Fault Refusal :=
  .next (s.setReg x (s.reg x &&& s.reg y))

/-- XOR Vx, Vy: VF is not reset (R166). -/
def execXorReg (x y : Nibble) (s : State) : Host.Outcome State Fault Refusal :=
  .next (s.setReg x (s.reg x ^^^ s.reg y))

/-- ADD Vx, Vy with carry (R167). -/
def execAddReg (x y : Nibble) (s : State) : Host.Outcome State Fault Refusal :=
  .next (s.setRegThenFlag x (s.reg x + s.reg y) (carry (s.reg x) (s.reg y)))

/-- SUB Vx, Vy: VX − VY with NOT-borrow (R168). -/
def execSubReg (x y : Nibble) (s : State) : Host.Outcome State Fault Refusal :=
  .next (s.setRegThenFlag x (s.reg x - s.reg y) (notBorrow (s.reg x) (s.reg y)))

/-- SUBN Vx, Vy: VY − VX with NOT-borrow (R169). -/
def execSubnReg (x y : Nibble) (s : State) : Host.Outcome State Fault Refusal :=
  .next (s.setRegThenFlag x (s.reg y - s.reg x) (notBorrow (s.reg y) (s.reg x)))

/-- SHR Vx: VX in place, VY ignored (R170, notes/assumptions/10.md). -/
def execShr (x : Nibble) (s : State) : Host.Outcome State Fault Refusal :=
  .next (s.setRegThenFlag x (s.reg x >>> 1) (shiftedOutRight (s.reg x)))

/-- SHL Vx: VX in place, VY ignored (R171, notes/assumptions/10.md). -/
def execShl (x : Nibble) (s : State) : Host.Outcome State Fault Refusal :=
  .next (s.setRegThenFlag x (s.reg x <<< 1) (shiftedOutLeft (s.reg x)))

/-- RND Vx, byte: the cycle's draw AND the immediate (R172, notes/assumptions/2.md). -/
def execRnd (x : Nibble) (nn : Byte) (s : State) : Host.Outcome State Fault Refusal :=
  .next (s.setReg x (s.rand &&& nn))

end Sys2Proof.Machine
end

