-- ==== Sys2Proof/Machine/ControlFlow.lean ====
section
/-! DEFINITION. The handlers of 41_control_flow.md: RET, JP, CALL, the four register and immediate skips, JP V0.
Each runs with pc = pc_next (10_state.md R34). -/

namespace Sys2Proof.Machine

/-- A skip: two more bytes when the condition holds (41_control_flow.md R143). -/
def State.skipIf (s : State) (c : Bool) : State := if c then s.setPc (s.pc + 2#16) else s

/-- RET: pc <- Stack[SP] mod 4096; SP <- (SP − 1) mod 16; the entry is not cleared (R140). -/
def execRet (s : State) : Host.Outcome State Fault Refusal :=
  .next ((s.setPc (s.stackAt s.sp)).setSp (s.sp - 1))

/-- JP addr: pc <- NNN (R141). -/
def execJp (nnn : Addr) (s : State) : Host.Outcome State Fault Refusal := .next (s.setPc (addrOperand nnn))

/-- CALL addr: SP <- (SP + 1) mod 16; then Stack[SP] <- pc; then pc <- NNN (R142, notes/assumptions/19.md). -/
def execCall (nnn : Addr) (s : State) : Host.Outcome State Fault Refusal :=
  .next (((s.setSp (s.sp + 1)).setStackAt (s.sp + 1) s.pc).setPc (addrOperand nnn))

/-- SE Vx, byte (R143). -/
def execSeByte (x : Nibble) (nn : Byte) (s : State) : Host.Outcome State Fault Refusal :=
  .next (s.skipIf (s.reg x == nn))

/-- SNE Vx, byte (R144). -/
def execSneByte (x : Nibble) (nn : Byte) (s : State) : Host.Outcome State Fault Refusal :=
  .next (s.skipIf (s.reg x != nn))

/-- SE Vx, Vy (R145). -/
def execSeReg (x y : Nibble) (s : State) : Host.Outcome State Fault Refusal :=
  .next (s.skipIf (s.reg x == s.reg y))

/-- SNE Vx, Vy (R146). -/
def execSneReg (x y : Nibble) (s : State) : Host.Outcome State Fault Refusal :=
  .next (s.skipIf (s.reg x != s.reg y))

/-- JP V0, addr: pc <- (NNN + V0) mod 4096 (R147). -/
def execJpV0 (nnn : Addr) (s : State) : Host.Outcome State Fault Refusal :=
  .next (s.setPc (addrOperand nnn + s.regWord 0))

end Sys2Proof.Machine
end

