-- ==== Sys2Proof/Machine/Display.lean ====
section
/-! DEFINITION. The handlers of 43_display.md: CLS and DRW. -/

namespace Sys2Proof.Machine

/-- CLS: every cell unlit; VF is not written (R190). -/
def execCls (s : State) : Host.Outcome State Fault Refusal := .next (s.setFb Framebuffer.blank)

/-- A state with the sprite of n rows at I drawn from (VX mod 64, VY mod yMod), and after it VF <- collision
(R191); yMod is the parameter DRAW_Y_MOD (R196). -/
def State.drawSprite (s : State) (yMod : Nat) (x y : Nibble) (n : Nat) : State :=
  let c := s.drawRows (s.spriteX x) (s.spriteY yMod y) n
  (s.setFb c.fb).setFlag c.collision

/-- DRW Vx, Vy, nibble (R191) with this machine's DRAW_Y_MOD. -/
def execDrw (x y n : Nibble) (s : State) : Host.Outcome State Fault Refusal :=
  .next (s.drawSprite drawYMod x y n.val)

end Sys2Proof.Machine
end

