-- ==== Sys2Proof/Machine/IndexMemory.lean ====
section
/-! DEFINITION. The handlers of 45_index_memory.md: LD I, ADD I, LD F, LD B, LD [I], LD Vx [I]. -/

namespace Sys2Proof.Machine

/-- LD I, addr (R230). -/
def execLdI (nnn : Addr) (s : State) : Host.Outcome State Fault Refusal := .next (s.setIndex (addrOperand nnn))

/-- ADD I, Vx: modulo 65536, no flag (R231, notes/assumptions/17.md). -/
def execAddI (x : Nibble) (s : State) : Host.Outcome State Fault Refusal := .next (s.setIndex (s.i + s.regWord x))

/-- LD F, Vx: five times the whole register (R232, notes/assumptions/16.md). -/
def execLdF (x : Nibble) (s : State) : Host.Outcome State Fault Refusal :=
  .next (s.setIndex (5#16 * s.regWord x))

/-- LD B, Vx: the three decimal digits at I, I + 1, I + 2 (R233). -/
def execLdB (x : Nibble) (s : State) : Host.Outcome State Fault Refusal :=
  .next (s.writeBytes (s.indexed 0) [hundreds (s.reg x), tens (s.reg x), units (s.reg x)])

/-- LD [I], Vx: V0 to VX, VX included, at I and up; I is unchanged (R234, notes/assumptions/11.md). -/
def execLdMemVx (x : Nibble) (s : State) : Host.Outcome State Fault Refusal := .next (s.storeRegs (regsUpTo x))

/-- LD Vx, [I]: V0 to VX, VX included, from I and up; I is unchanged (R235, notes/assumptions/11.md). -/
def execLdVxMem (x : Nibble) (s : State) : Host.Outcome State Fault Refusal := .next (s.loadRegs (regsUpTo x))

end Sys2Proof.Machine
end

