-- ==== Sys2Proof/Machine/KeysTimers.lean ====
section
/-! DEFINITION. The handlers of 44_keys_timers.md: SKP, SKNP, LD Vx DT, LD Vx K, LD DT Vx, LD ST Vx. The timer
tick is no part of them; it is in Ops.lean. -/

namespace Sys2Proof.Machine

/-- SKP Vx (R210). -/
def execSkp (x : Nibble) (s : State) : Host.Outcome State Fault Refusal :=
  .next (s.skipIf (s.key (s.keyOperand x)))

/-- SKNP Vx (R211). -/
def execSknp (x : Nibble) (s : State) : Host.Outcome State Fault Refusal :=
  .next (s.skipIf (!s.key (s.keyOperand x)))

/-- LD Vx, DT: the value before this cycle's tick (R212). -/
def execLdVxDt (x : Nibble) (s : State) : Host.Outcome State Fault Refusal := .next (s.setReg x s.dt)

/-- LD Vx, K: the least pressed key, or pc back to this instruction when none is pressed (R213). -/
def execLdVxK (x : Nibble) (s : State) : Host.Outcome State Fault Refusal :=
  match s.firstKey with
  | some k => .next (s.setReg x (BitVec.ofNat 8 k.val))
  | none => .next (s.setPc (s.pc - 2#16))

/-- LD DT, Vx (R214). -/
def execLdDtVx (x : Nibble) (s : State) : Host.Outcome State Fault Refusal := .next (s.setDt (s.reg x))

/-- LD ST, Vx (R215). -/
def execLdStVx (x : Nibble) (s : State) : Host.Outcome State Fault Refusal := .next (s.setSt (s.reg x))

end Sys2Proof.Machine
end

