-- ==== Sys2Proof/Machine/Step.lean ====
section
/-! DEFINITION. One cycle (40_cycle_engine.md R120), and a state set up to run a given word next. -/

namespace Sys2Proof.Machine

/-- One cycle: fetch, advance, handler, timer tick (R120). A word without a handler runs as a no-op (R124). -/
def step (s : State) : Host.Outcome State Fault Refusal :=
  match s.fetchInstr with
  | .ok i => finishCycle (exec i s.advance)
  | .error r => finishCycle (execUnregistered r s.advance)

/-- s with the word w stored big-endian at pc and pc + 1, where the next fetch reads (R121). -/
def State.withFetchWord (s : State) (nbits w : Nat) : State :=
  let word : Word := BitVec.ofNat 16 (w % 2 ^ nbits)
  s.writeBytes s.pc.toNat [highByte word, lowByte word]

end Sys2Proof.Machine
end

