-- ==== Sys2Proof/Machine/Environment.lean ====
section
/-! DEFINITION. What the environment does to the machine and sees of it (60_exceptions.md R260): the ROM loader,
the input collaborator, the display collaborator, the pacing driver. The environment writes nothing else
(notes/assumptions/14.md). -/

namespace Sys2Proof.Machine

/-- Where the ROM loader starts (00_scope.md R9, ROM_BASE). -/
def romBase : Nat := 0x200

/-- The ROM loader: byte j at (0x200 + j) mod 4096, in ascending j, so that later bytes of a long ROM win
(70_reset_and_hazards.md R283, notes/assumptions/18.md). It runs after construction, before the first cycle. -/
def State.loadRom (s : State) (rom : List Byte) : State := s.writeBytes romBase rom

/-- The input collaborator: Keys[k] <- pressed, between two cycles (60_exceptions.md R261). -/
def State.setKey (s : State) (k : Nibble) (pressed : Bool) : State :=
  { s with keys := s.keys.set k.val pressed k.isLt }

/-- The value the display collaborator reads for a cell, of PIXEL_BITS bits: all ones when lit, zero when unlit
(60_exceptions.md R263, notes/assumptions/6.md). -/
def pixelValue (pixelBits : Nat) (lit : Bool) : BitVec pixelBits :=
  if lit then BitVec.allOnes pixelBits else 0#pixelBits

/-- The readout of the framebuffer: 2048 values, row-major, cell (x, y) at index 64·y + x (60_exceptions.md R263,
notes/assumptions/6.md). -/
def State.readout (s : State) (pixelBits : Nat) : List (BitVec pixelBits) :=
  (List.range 2048).map (fun j => pixelValue pixelBits (s.pixel (j % 64) (j / 64)))

/-- The sound timer as the environment reads it (60_exceptions.md R262). -/
def State.soundTimer (s : State) : Byte := s.st

/-- What happens to the machine after the ROM is loaded: the pacing driver asks for a cycle, or the input
collaborator changes a key (60_exceptions.md R260, R264). -/
inductive Event
  /-- One cycle is requested (R264). -/
  | cycle
  /-- Keys[k] <- pressed (R261). -/
  | setKey (k : Nibble) (pressed : Bool)
  deriving DecidableEq, Repr

/-- The machine after an event. -/
def State.after (s : State) : Event → Host.Outcome State Fault Refusal
  | .cycle => step s
  | .setKey k pressed => .next (s.setKey k pressed)

/-- The machine after a list of events, in order; it would stop at a fault or a refusal. -/
def State.run (s : State) : List Event → Host.Outcome State Fault Refusal
  | [] => .next s
  | e :: es =>
    match s.after e with
    | .next t => State.run t es
    | .fault f => .fault f
    | .refused r => .refused r

end Sys2Proof.Machine
end

