-- ==== Sys2Proof/Safety.lean ====
section
/-! DEFINITION. The terms claims are stated in: which components two states agree on, what an instruction may
write, the cells a sprite covers, the opcode table as match and mask, the invariant of the machine, and the states
a run can reach. None of it is a part of the machine. -/

namespace Sys2Proof

/-! ## The opcode table as match and mask (30_encoding.md R99) -/

/-- A row of opcode_table.json. -/
structure OpcodeRow where
  mnemonic : String
  pattern : Word
  mask : Word
  deriving DecidableEq, Repr

/-- The row an instruction stands for, written from opcode_table.json. -/
def Instr.row : Instr → OpcodeRow
  | .cls _ _ => ⟨"CLS", 0x00E0#16, 0xF0FF#16⟩
  | .ret _ _ => ⟨"RET", 0x00EE#16, 0xF0FF#16⟩
  | .jp _ => ⟨"JP_addr", 0x1000#16, 0xF000#16⟩
  | .call _ => ⟨"CALL_addr", 0x2000#16, 0xF000#16⟩
  | .seByte _ _ => ⟨"SE_Vx__byte", 0x3000#16, 0xF000#16⟩
  | .sneByte _ _ => ⟨"SNE_Vx__byte", 0x4000#16, 0xF000#16⟩
  | .seReg _ _ _ => ⟨"SE_Vx__Vy", 0x5000#16, 0xF000#16⟩
  | .ldByte _ _ => ⟨"LD_Vx__byte", 0x6000#16, 0xF000#16⟩
  | .addByte _ _ => ⟨"ADD_Vx__byte", 0x7000#16, 0xF000#16⟩
  | .ldReg _ _ => ⟨"LD_Vx__Vy", 0x8000#16, 0xF00F#16⟩
  | .orReg _ _ => ⟨"OR_Vx__Vy", 0x8001#16, 0xF00F#16⟩
  | .andReg _ _ => ⟨"AND_Vx__Vy", 0x8002#16, 0xF00F#16⟩
  | .xorReg _ _ => ⟨"XOR_Vx__Vy", 0x8003#16, 0xF00F#16⟩
  | .addReg _ _ => ⟨"ADD_Vx__Vy", 0x8004#16, 0xF00F#16⟩
  | .subReg _ _ => ⟨"SUB_Vx__Vy", 0x8005#16, 0xF00F#16⟩
  | .shr _ _ => ⟨"SHR_Vx", 0x8006#16, 0xF00F#16⟩
  | .subnReg _ _ => ⟨"SUBN_Vx__Vy", 0x8007#16, 0xF00F#16⟩
  | .shl _ _ => ⟨"SHL_Vx", 0x800E#16, 0xF00F#16⟩
  | .sneReg _ _ _ => ⟨"SNE_Vx__Vy", 0x9000#16, 0xF000#16⟩
  | .ldI _ => ⟨"LD_I__addr", 0xA000#16, 0xF000#16⟩
  | .jpV0 _ => ⟨"JP_V0__addr", 0xB000#16, 0xF000#16⟩
  | .rnd _ _ => ⟨"RND_Vx__byte", 0xC000#16, 0xF000#16⟩
  | .drw _ _ _ => ⟨"DRW_Vx__Vy__nibble", 0xD000#16, 0xF000#16⟩
  | .skp _ _ => ⟨"SKP_Vx", 0xE09E#16, 0xF0FF#16⟩
  | .sknp _ _ => ⟨"SKNP_Vx", 0xE0A1#16, 0xF0FF#16⟩
  | .ldVxDt _ => ⟨"LD_Vx__DT", 0xF007#16, 0xF0FF#16⟩
  | .ldVxK _ => ⟨"LD_Vx__K", 0xF00A#16, 0xF0FF#16⟩
  | .ldDtVx _ => ⟨"LD_DT__Vx", 0xF015#16, 0xF0FF#16⟩
  | .ldStVx _ => ⟨"LD_ST__Vx", 0xF018#16, 0xF0FF#16⟩
  | .addI _ => ⟨"ADD_I__Vx", 0xF01E#16, 0xF0FF#16⟩
  | .ldF _ => ⟨"LD_F__Vx", 0xF029#16, 0xF0FF#16⟩
  | .ldB _ => ⟨"LD_B__Vx", 0xF033#16, 0xF0FF#16⟩
  | .ldMemVx _ => ⟨"LD__I___Vx", 0xF055#16, 0xF0FF#16⟩
  | .ldVxMem _ => ⟨"LD_Vx___I", 0xF065#16, 0xF0FF#16⟩

/-- Rows of opcode_table.json, part 1. -/
def opcodeRows1 : List OpcodeRow :=
  [⟨"CLS", 0x00E0#16, 0xF0FF#16⟩,
    ⟨"RET", 0x00EE#16, 0xF0FF#16⟩,
    ⟨"JP_addr", 0x1000#16, 0xF000#16⟩,
    ⟨"CALL_addr", 0x2000#16, 0xF000#16⟩,
    ⟨"SE_Vx__byte", 0x3000#16, 0xF000#16⟩,
    ⟨"SNE_Vx__byte", 0x4000#16, 0xF000#16⟩,
    ⟨"SE_Vx__Vy", 0x5000#16, 0xF000#16⟩,
    ⟨"LD_Vx__byte", 0x6000#16, 0xF000#16⟩,
    ⟨"ADD_Vx__byte", 0x7000#16, 0xF000#16⟩]

/-- Rows of opcode_table.json, part 2. -/
def opcodeRows2 : List OpcodeRow :=
  [⟨"LD_Vx__Vy", 0x8000#16, 0xF00F#16⟩,
    ⟨"OR_Vx__Vy", 0x8001#16, 0xF00F#16⟩,
    ⟨"AND_Vx__Vy", 0x8002#16, 0xF00F#16⟩,
    ⟨"XOR_Vx__Vy", 0x8003#16, 0xF00F#16⟩,
    ⟨"ADD_Vx__Vy", 0x8004#16, 0xF00F#16⟩,
    ⟨"SUB_Vx__Vy", 0x8005#16, 0xF00F#16⟩,
    ⟨"SHR_Vx", 0x8006#16, 0xF00F#16⟩,
    ⟨"SUBN_Vx__Vy", 0x8007#16, 0xF00F#16⟩,
    ⟨"SHL_Vx", 0x800E#16, 0xF00F#16⟩]

/-- Rows of opcode_table.json, part 3. -/
def opcodeRows3 : List OpcodeRow :=
  [⟨"SNE_Vx__Vy", 0x9000#16, 0xF000#16⟩,
    ⟨"LD_I__addr", 0xA000#16, 0xF000#16⟩,
    ⟨"JP_V0__addr", 0xB000#16, 0xF000#16⟩,
    ⟨"RND_Vx__byte", 0xC000#16, 0xF000#16⟩,
    ⟨"DRW_Vx__Vy__nibble", 0xD000#16, 0xF000#16⟩,
    ⟨"SKP_Vx", 0xE09E#16, 0xF0FF#16⟩,
    ⟨"SKNP_Vx", 0xE0A1#16, 0xF0FF#16⟩]

/-- Rows of opcode_table.json, part 4. -/
def opcodeRows4 : List OpcodeRow :=
  [⟨"LD_Vx__DT", 0xF007#16, 0xF0FF#16⟩,
    ⟨"LD_Vx__K", 0xF00A#16, 0xF0FF#16⟩,
    ⟨"LD_DT__Vx", 0xF015#16, 0xF0FF#16⟩,
    ⟨"LD_ST__Vx", 0xF018#16, 0xF0FF#16⟩,
    ⟨"ADD_I__Vx", 0xF01E#16, 0xF0FF#16⟩,
    ⟨"LD_F__Vx", 0xF029#16, 0xF0FF#16⟩,
    ⟨"LD_B__Vx", 0xF033#16, 0xF0FF#16⟩,
    ⟨"LD__I___Vx", 0xF055#16, 0xF0FF#16⟩,
    ⟨"LD_Vx___I", 0xF065#16, 0xF0FF#16⟩]

/-- The 34 rows of opcode_table.json, in its order. -/
def opcodeTable : List OpcodeRow := opcodeRows1 ++ opcodeRows2 ++ opcodeRows3 ++ opcodeRows4

end Sys2Proof

namespace Sys2Proof.Machine

/-- The components of the state. -/
inductive Component
  | mem
  | v
  | i
  | pc
  | sp
  | stack
  | dt
  | st
  | keys
  | fb
  | draws
  deriving DecidableEq, Repr

/-- Two states agree on a component. Memory is compared byte by byte, through the read of one byte. -/
def State.sameOn (s t : State) : Component → Prop
  | .mem => ∀ a : Nat, t.readByte a = s.readByte a
  | .v => ∀ k : Nibble, t.reg k = s.reg k
  | .i => t.i = s.i
  | .pc => t.pc = s.pc
  | .sp => t.sp = s.sp
  | .stack => ∀ j : Nibble, t.stackAt j = s.stackAt j
  | .dt => t.dt = s.dt
  | .st => t.st = s.st
  | .keys => ∀ k : Nibble, t.key k = s.key k
  | .fb => ∀ x y : Nat, t.pixel x y = s.pixel x y
  | .draws => t.draws = s.draws

/-- Two states agree on every component outside a list. -/
def State.sameBut (s t : State) (changed : List Component) : Prop :=
  ∀ c : Component, c ∉ changed → s.sameOn t c

/-- Every V register but those of a list is the same. -/
def State.regsSameBut (s t : State) (changed : List Nibble) : Prop :=
  ∀ k : Nibble, k ∉ changed → t.reg k = s.reg k

/-- The bytes at a, a + 1, …, a + n − 1, each reduced modulo 4096, are the only ones that may differ. -/
def State.memSameOutside (s t : State) (a n : Nat) : Prop :=
  ∀ b : Nat, (∀ k : Nat, k < n → b % memSize ≠ (a + k) % memSize) → t.readByte b = s.readByte b

/-! ## What an instruction may write -/

/-- The components the handler of an instruction may change (10_state.md R31, R37 to R43; 20_memory.md R60). -/
def writesOf : Instr → List Component
  | .cls _ _ => [.fb]
  | .ret _ _ => [.pc, .sp]
  | .jp _ => [.pc]
  | .call _ => [.pc, .sp, .stack]
  | .seByte _ _ => [.pc]
  | .sneByte _ _ => [.pc]
  | .seReg _ _ _ => [.pc]
  | .ldByte _ _ => [.v]
  | .addByte _ _ => [.v]
  | .ldReg _ _ => [.v]
  | .orReg _ _ => [.v]
  | .andReg _ _ => [.v]
  | .xorReg _ _ => [.v]
  | .addReg _ _ => [.v]
  | .subReg _ _ => [.v]
  | .shr _ _ => [.v]
  | .subnReg _ _ => [.v]
  | .shl _ _ => [.v]
  | .sneReg _ _ _ => [.pc]
  | .ldI _ => [.i]
  | .jpV0 _ => [.pc]
  | .rnd _ _ => [.v]
  | .drw _ _ _ => [.fb, .v]
  | .skp _ _ => [.pc]
  | .sknp _ _ => [.pc]
  | .ldVxDt _ => [.v]
  | .ldVxK _ => [.v, .pc]
  | .ldDtVx _ => [.dt]
  | .ldStVx _ => [.st]
  | .addI _ => [.i]
  | .ldF _ => [.i]
  | .ldB _ => [.mem]
  | .ldMemVx _ => [.mem]
  | .ldVxMem _ => [.v]

/-- A change of the next state in an answer, if there is a next state. -/
def mapNext (f : State → State) : Result → Result
  | .next s => .next (f s)
  | .fault r => .fault r
  | .refused r => .refused r

/-! ## Sprites -/

/-- The sprite of n rows at I, drawn from column x0 and row y0, has a set bit at column p and row q: bit 7 of row
byte r is column x0 of row y0 + r (43_display.md R192). -/
def State.spriteBit (s : State) (x0 y0 n p q : Nat) : Bool :=
  decide (x0 ≤ p ∧ p < x0 + 8 ∧ y0 ≤ q ∧ q < y0 + n) &&
    (s.readByte (s.i.toNat + (q - y0))).getLsbD (7 - (p - x0))

/-! ## The invariant and the runs -/

/-- The invariant of the machine: memory in canonical form, pc and every stack entry below 0x1000 (10_state.md
R33, R38). -/
def State.Inv (s : State) : Prop :=
  s.mem.wf = true ∧ s.pc.toNat < 4096 ∧ ∀ j : Nibble, (s.stackAt j).toNat < 4096

/-- The states of a run as the spec orders it: construction, then the ROM loader, then cycles and key changes
(70_reset_and_hazards.md R284, R285). -/
inductive Reachable : State → Prop
  /-- The machine with a ROM loaded, before the first cycle. -/
  | boot (rom : List Byte) : Reachable (State.reset.loadRom rom)
  /-- One more event. -/
  | event (s t : State) (e : Event) : Reachable s → s.after e = .next t → Reachable t

end Sys2Proof.Machine
end

