-- ==== Sys2Proof/Certificates/Slice0/Obligations.lean ====
section
/-! DEFINITION. The statements for the provers. Arithmetic is stated over natural numbers, as the spec's
pseudocode writes it (00_scope.md R11). "The spec's decision D<n>" names an entry of 92_eei_decisions.md that the
model follows; such a clause rests on the spec's own choice, not on its source. -/

open Sys2Proof Sys2Proof.Machine

/-! ## Encoding -/

/-- Decoding an encoded instruction gives it back, with every operand and under both secondary keys (30_encoding.md
R97, R98, R103; the patterns are the spec's decision D1, notes/assumptions/7.md). A constructor's ignored nibbles are
the model's (notes/assumptions/20.md). -/
def Obligations.WellFormedInstructionDecodesBack : Prop :=
  ∀ (key : SecondaryKey) (i : Instr), i.wellFormedWith key = true → decodeWith key i.encode = .ok i

/-- The decoder drops no bit: a decoded word is the encoding of the instruction read from it, which is well formed
(30_encoding.md R91; D1). The patterns are the spec's decision D1 (notes/assumptions/7.md), the ignored nibbles of a
constructor the model's (20.md). -/
def Obligations.DecodedWordEncodesBack : Prop :=
  ∀ (key : SecondaryKey) (w : Word) (i : Instr), decodeWith key w = .ok i →
    i.wellFormedWith key = true ∧ i.encode = w

/-- The two-level dispatch and the match-and-mask reading of the opcode table are one decoder: a word decodes to an
instruction of a row exactly if the row's masked bits are the row's pattern, and no two rows match one word
(30_encoding.md R99, derived there; D1, D2). Log entries: notes/assumptions/3.md, 7.md. -/
def Obligations.MatchAndMaskSelectTheDecodedRow : Prop :=
  ∀ w : Word,
    (∀ i : Instr, decodeWord w = .ok i → i.row ∈ opcodeTable ∧ w &&& i.row.mask = i.row.pattern) ∧
    (∀ r ∈ opcodeTable, w &&& r.mask = r.pattern → ∃ i : Instr, decodeWord w = .ok i ∧ i.row = r)

/-- The words without a handler are exactly those 30_encoding.md R100 lists for the default keys (D1, D2,
notes/assumptions/3.md, 7.md). -/
def Obligations.UnregisteredWordsAreThoseListed : Prop :=
  ∀ w : Word, (∃ r, decodeWord w = .error r) ↔
    (w.toNat / 4096 = 0x0 ∧ w.toNat % 256 ∉ [0xE0, 0xEE]) ∨
    (w.toNat / 4096 = 0x8 ∧ w.toNat % 16 ∈ [0x8, 0x9, 0xA, 0xB, 0xC, 0xD, 0xF]) ∨
    (w.toNat / 4096 = 0xE ∧ w.toNat % 256 ∉ [0x9E, 0xA1]) ∨
    (w.toNat / 4096 = 0xF ∧ w.toNat % 256 ∉ [0x07, 0x0A, 0x15, 0x18, 0x1E, 0x29, 0x33, 0x55, 0x65])

/-- Words written out in the spec decode to the instruction they stand for: the four the source spells (30_encoding.md
R102) and one of each other family (95_test_vectors.md section 2). The patterns the source does not spell are the
spec's decision D1, the key of families 0 and E its decision D2 (notes/assumptions/3.md, 7.md). -/
def Obligations.WordsOfTheSpecDecode : Prop :=
  decodeWord 0x600A#16 = .ok (.ldByte 0 0x0A#8) ∧ decodeWord 0x7005#16 = .ok (.addByte 0 0x05#8) ∧
  decodeWord 0xA200#16 = .ok (.ldI 0x200#12) ∧ decodeWord 0xD005#16 = .ok (.drw 0 0 5) ∧
  decodeWord 0x00E0#16 = .ok (.cls 0 0xE) ∧ decodeWord 0x2300#16 = .ok (.call 0x300#12) ∧
  decodeWord 0x8F15#16 = .ok (.subReg 0xF 1) ∧ decodeWord 0xE29E#16 = .ok (.skp 2 9) ∧
  decodeWord 0xF41E#16 = .ok (.addI 4) ∧ decodeWord 0xF265#16 = .ok (.ldVxMem 2)

/-- The alternative key: with the low nibble as key, 0XY0 is CLS, 0XYE is RET, EXYE is SKP and EXY1 is SKNP for every
Y, and no word of another family changes its meaning (30_encoding.md R103, derived there; D2). Log entries, the
patterns being decision D1: notes/assumptions/3.md, 7.md. -/
def Obligations.NibbleKeyChangesFamilies0AndE : Prop :=
  (∀ x y : Nibble,
    decodeWith .nibble (packXYN 0x0 x y 0x0) = .ok (.cls x y) ∧
    decodeWith .nibble (packXYN 0x0 x y 0xE) = .ok (.ret x y) ∧
    decodeWith .nibble (packXYN 0xE x y 0xE) = .ok (.skp x y) ∧
    decodeWith .nibble (packXYN 0xE x y 0x1) = .ok (.sknp x y)) ∧
  (∀ w : Word, w.toNat / 4096 ≠ 0x0 → w.toNat / 4096 ≠ 0xE → decodeWith .nibble w = decodeWith .byte w)

/-- Bits of the word that are neither key nor operand do not affect execution (30_encoding.md R96, derived there).
That SHR and SHL shift VX, so that their Y is ignored, is the spec's decision D7 (notes/assumptions/10.md); that a
constructor carries its ignored nibbles is the model's choice (20.md). -/
def Obligations.IgnoredBitsDoNotAffectExecution : Prop :=
  ∀ (x y n x' y' n' : Nibble) (s : State),
    exec (.cls x y) s = exec (.cls x' y') s ∧ exec (.ret x y) s = exec (.ret x' y') s ∧
    exec (.seReg x y n) s = exec (.seReg x y n') s ∧ exec (.sneReg x y n) s = exec (.sneReg x y n') s ∧
    exec (.shr x y) s = exec (.shr x y') s ∧ exec (.shl x y) s = exec (.shl x y') s ∧
    exec (.skp x y) s = exec (.skp x y') s ∧ exec (.sknp x y) s = exec (.sknp x y') s

/-! ## The cycle -/

/-- One cycle (40_cycle_engine.md R120): the word at pc, big-endian, is decoded; its handler, or nothing for an
unregistered word, runs with pc already advanced by 2 modulo 4096; then each timer that is not zero counts down. The
clause draws := draws + 1 is the model's choice and no part of R120 (notes/assumptions/2.md). That an odd pc is
fetched from like any other is the spec's decision D19 (notes/assumptions/13.md); an unregistered word is an error of
the decoder here (21.md), and exec runs at the advanced pc (22.md). -/
def Obligations.StepRunsTheDecodedInstruction : Prop :=
  ∀ s : State,
    (∀ i : Instr, decodeWord (wordOfBytes (s.readByte s.pc.toNat) (s.readByte (s.pc.toNat + 1))) = .ok i →
      ∃ u : State, exec i { s with pc := (s.pc + 2#16) % 4096#16 } = .next u ∧
        step s = .next { u with
          dt := if u.dt = 0#8 then u.dt else u.dt - 1#8
          st := if u.st = 0#8 then u.st else u.st - 1#8
          draws := u.draws + 1 }) ∧
    (∀ r, decodeWord (wordOfBytes (s.readByte s.pc.toNat) (s.readByte (s.pc.toNat + 1))) = .error r →
      step s = .next { s with
        pc := (s.pc + 2#16) % 4096#16
        dt := if s.dt = 0#8 then s.dt else s.dt - 1#8
        st := if s.st = 0#8 then s.st else s.st - 1#8
        draws := s.draws + 1 })

/-- The fetched word has the byte at pc as its high half and the byte at pc + 1 as its low half, both addresses modulo
4096, pc odd or even (40_cycle_engine.md R121); the advance adds 2 to pc modulo 4096 and changes nothing else (R122).
That an odd pc is fetched from like any other is the spec's decision D19 (notes/assumptions/13.md; R35, 20_memory.md
R66). -/
def Obligations.FetchIsBigEndianAndAdvanceAddsTwo : Prop :=
  ∀ s : State,
    s.fetchWord.toNat =
      (s.mem.read (s.pc.toNat % 4096)).toNat * 256 + (s.mem.read ((s.pc.toNat + 1) % 4096)).toNat ∧
    s.advance.pc.toNat = (s.pc.toNat + 2) % 4096 ∧ s.sameBut s.advance [.pc]

/-- Every cycle and every handler answers a next state; waiting for a key is a normal cycle that leaves pc where it
was (40_cycle_engine.md R129). At pc = 0xFFE and 0xFFF the wait comes back to its own address because the step back is
reduced modulo 4096, the spec's decision D5 (notes/assumptions/8.md); that the machine has no fault is log entry
24.md. -/
def Obligations.EveryCycleAnswersANextState : Prop :=
  (∀ s : State, ∃ t, step s = .next t) ∧ (∀ (i : Instr) (s : State), ∃ t, exec i s = .next t) ∧
  (∀ (s : State) (x : Nibble), s.fetchInstr = .ok (.ldVxK x) → s.pc.toNat < 4096 → (∀ k, s.key k = false) →
    ∃ t, step s = .next t ∧ t.pc = s.pc)

/-- Every cycle, whatever its word, counts down each timer that is not zero, after the handler: the delay timer from
the value LD DT, Vx has just written, the sound timer from the value LD ST, Vx has just written
(40_cycle_engine.md R125). -/
def Obligations.TimersTickInEveryCycle : Prop :=
  ∀ s : State, ∃ t, step s = .next t ∧
    (∀ x, s.fetchInstr = .ok (.ldDtVx x) → t.dt.toNat = (s.reg x).toNat - 1) ∧
    ((∀ x, s.fetchInstr ≠ .ok (.ldDtVx x)) → t.dt.toNat = s.dt.toNat - 1) ∧
    (∀ x, s.fetchInstr = .ok (.ldStVx x) → t.st.toNat = (s.reg x).toNat - 1) ∧
    ((∀ x, s.fetchInstr ≠ .ok (.ldStVx x)) → t.st.toNat = s.st.toNat - 1)

/-- The countdown law over k cycles, with any key changes between them: a timer that no cycle writes holds its first
value less k, not below 0 (44_keys_timers.md R216, derived there). That keys change between cycles is the spec's
decision D15 (notes/assumptions/14.md). -/
def Obligations.UnwrittenTimersCountDown : Prop :=
  ∀ (k : Nat) (f : Nat → State) (ks : Nat → Vector Bool 16),
    (∀ j, j < k → step { f j with keys := ks j } = .next (f (j + 1))) →
    ((∀ j, j < k → ∀ x, (f j).fetchInstr ≠ .ok (.ldDtVx x)) → (f k).dt.toNat = (f 0).dt.toNat - k) ∧
    ((∀ j, j < k → ∀ x, (f j).fetchInstr ≠ .ok (.ldStVx x)) → (f k).st.toNat = (f 0).st.toNat - k)

/-- A byte stored at pc or pc + 1 is in the next word fetched there; no fence is needed (20_memory.md R71, derived
there). The odd pc is the spec's decision D19 (notes/assumptions/13.md); the premise that memory is canonical is about
the model's form of memory (23.md). -/
def Obligations.FetchSeesEarlierStores : Prop :=
  ∀ (s : State) (b c : Byte), s.mem.wf = true →
    ((s.writeByte s.pc.toNat b).writeByte (s.pc.toNat + 1) c).fetchWord.toNat = b.toNat * 256 + c.toNat

/-! ## Construction, the environment and the invariant -/

/-- The state at construction, in the values of 10_state.md R47, with all 80 glyph bytes as 20_memory.md R63 lists
them, a digit to each list; the values of V1 to VF, I, SP, Stack, DT, ST, Keys and FB are the spec's decision D4, the
glyphs 1 to F its decision D12 (notes/assumptions/1.md, 5.md). -/
def Obligations.ConstructionState : Prop :=
  State.reset.pc = 0x200#16 ∧ State.reset.i = 0#16 ∧ State.reset.sp = 0 ∧ State.reset.dt = 0#8 ∧
  State.reset.st = 0#8 ∧ (∀ k, State.reset.reg k = 0#8) ∧ (∀ j, State.reset.stackAt j = 0#16) ∧
  (∀ k, State.reset.key k = false) ∧ (∀ x y, State.reset.pixel x y = false) ∧
  (List.range 80).map State.reset.readByte =
    [0xF0#8, 0x90#8, 0x90#8, 0x90#8, 0xF0#8] ++ [0x20#8, 0x60#8, 0x20#8, 0x20#8, 0x70#8] ++
    [0xF0#8, 0x10#8, 0xF0#8, 0x80#8, 0xF0#8] ++ [0xF0#8, 0x10#8, 0xF0#8, 0x10#8, 0xF0#8] ++
    [0x90#8, 0x90#8, 0xF0#8, 0x10#8, 0x10#8] ++ [0xF0#8, 0x80#8, 0xF0#8, 0x10#8, 0xF0#8] ++
    [0xF0#8, 0x80#8, 0xF0#8, 0x90#8, 0xF0#8] ++ [0xF0#8, 0x10#8, 0x20#8, 0x40#8, 0x40#8] ++
    [0xF0#8, 0x90#8, 0xF0#8, 0x90#8, 0xF0#8] ++ [0xF0#8, 0x90#8, 0xF0#8, 0x10#8, 0xF0#8] ++
    [0xF0#8, 0x90#8, 0xF0#8, 0x90#8, 0x90#8] ++ [0xE0#8, 0x90#8, 0xE0#8, 0x90#8, 0xE0#8] ++
    [0xF0#8, 0x80#8, 0x80#8, 0x80#8, 0xF0#8] ++ [0xE0#8, 0x90#8, 0x90#8, 0x90#8, 0xE0#8] ++
    [0xF0#8, 0x80#8, 0xF0#8, 0x80#8, 0xF0#8] ++ [0xF0#8, 0x80#8, 0xF0#8, 0x80#8, 0x80#8] ∧
  (∀ a, 80 ≤ a → a < 4096 → State.reset.readByte a = 0#8)

/-- The invariant holds at construction. The stack entries at construction are the spec's decision D4
(notes/assumptions/1.md), the canonical form of memory is the model's (23.md); the rest is 10_state.md R47. -/
def Obligations.ConstructionMeetsInvariant : Prop := State.reset.Inv

/-- Every cycle keeps the invariant: memory in canonical form, pc and every stack entry below 0x1000 (10_state.md R33
by the spec's decision D5, R38; notes/assumptions/8.md). The canonical form of memory is the model's
(notes/assumptions/23.md). -/
def Obligations.CycleKeepsInvariant : Prop :=
  ∀ s t : State, s.Inv → step s = .next t → t.Inv

/-- The ROM loader and the input collaborator keep the invariant (60_exceptions.md R260). What the environment may
write is the spec's decisions D15 and D20 (notes/assumptions/14.md), the canonical form of memory is the model's
(23.md). -/
def Obligations.EnvironmentKeepsInvariant : Prop :=
  ∀ s : State, s.Inv → (∀ rom : List Byte, (s.loadRom rom).Inv) ∧
    (∀ (k : Nibble) (pressed : Bool), (s.setKey k pressed).Inv)

/-- A run never stops by itself, whatever cycles and key changes the environment asks for (70_reset_and_hazards.md
R285), and every state it reaches from a machine with a ROM meets the invariant. Which states a run reaches, and that it
goes on as long as the environment asks, are the spec's decisions D15, D16 and D20 (notes/assumptions/14.md); the bound
on pc is its decision D5 (8.md), the stack at construction its decision D4 (1.md); that no cycle stops is log entry
24.md; the canonical form of memory is the model's (23.md). -/
def Obligations.RunsNeverStopAndKeepInvariant : Prop :=
  (∀ (es : List Event) (s : State), ∃ t, s.run es = .next t) ∧ (∀ s : State, Reachable s → s.Inv)

/-- The ROM loader puts byte j at (0x200 + j) mod 4096, later bytes of a ROM over 4096 bytes overwriting earlier ones
(the spec's decision D24, notes/assumptions/18.md), and changes nothing else (70_reset_and_hazards.md R283). The
premise that memory is canonical is about the model's form of memory (notes/assumptions/23.md). -/
def Obligations.LoaderPlacesRom : Prop :=
  ∀ (s : State) (rom : List Byte), s.mem.wf = true →
    (∀ j : Nat, ∀ h : j < rom.length, rom.length ≤ j + 4096 → (s.loadRom rom).readByte (0x200 + j) = rom[j]) ∧
    s.memSameOutside (s.loadRom rom) 0x200 rom.length ∧ s.sameBut (s.loadRom rom) [.mem]

/-- The input collaborator sets one key and nothing else; no cycle changes a key (10_state.md R42; 60_exceptions.md
R261 by the spec's decision D15, notes/assumptions/14.md). -/
def Obligations.KeysAreSetByTheEnvironmentOnly : Prop :=
  (∀ (s : State) (k : Nibble) (pressed : Bool), (s.setKey k pressed).key k = pressed ∧
    (∀ j, j ≠ k → (s.setKey k pressed).key j = s.key j) ∧ s.sameBut (s.setKey k pressed) [.keys]) ∧
  (∀ s t : State, step s = .next t → ∀ k, t.key k = s.key k)

/-- The readout: 2048 values, cell (x, y) at index 64·y + x, all ones when lit and zero when unlit, for every
PIXEL_BITS (60_exceptions.md R263; order and width are the spec's decision D13, notes/assumptions/6.md). -/
def Obligations.ReadoutIsRowMajor : Prop :=
  ∀ (pixelBits : Nat) (s : State), (s.readout pixelBits).length = 2048 ∧
    ∀ x y : Nat, x < 64 → y < 32 →
      (s.readout pixelBits)[y * 64 + x]? =
        some (if s.pixel x y then BitVec.ofNat pixelBits (2 ^ pixelBits - 1) else 0#pixelBits)

/-! ## Control flow -/

/-- JP addr (41_control_flow.md R141). -/
def Obligations.JumpReplacesPc : Prop :=
  ∀ (nnn : Addr) (s : State), ∃ t, exec (.jp nnn) s = .next t ∧ t.pc.toNat = nnn.toNat ∧ s.sameBut t [.pc]

/-- CALL addr: SP is incremented modulo 16, pc is stored at the new SP and replaced; every other entry stays
(41_control_flow.md R142; the order is derived there, 90_conflicts.md C3, notes/assumptions/19.md). That memory keeps
every byte, the stack being no part of it, is the spec's decision D21 (notes/assumptions/15.md); a pc of 0x1000 or
more is pushed as it stands (25.md). -/
def Obligations.CallPushesPcAndJumps : Prop :=
  ∀ (nnn : Addr) (s : State), ∃ t, exec (.call nnn) s = .next t ∧ t.pc.toNat = nnn.toNat ∧
    t.sp.val = (s.sp.val + 1) % 16 ∧ t.stackAt t.sp = s.pc ∧
    (∀ j, j ≠ t.sp → t.stackAt j = s.stackAt j) ∧ s.sameBut t [.pc, .sp, .stack]

/-- RET: pc from Stack[SP] modulo 4096, SP decremented modulo 16 (from 0 to 15), the entry not cleared
(41_control_flow.md R140). The reduction modulo 4096 is the spec's decision D5 (notes/assumptions/8.md); it shows only
on an entry of 0x1000 or more, which no run holds (notes/assumptions/25.md). -/
def Obligations.ReturnPopsPc : Prop :=
  ∀ (x y : Nibble) (s : State), ∃ t, exec (.ret x y) s = .next t ∧
    t.pc.toNat = (s.stackAt s.sp).toNat % 4096 ∧ t.sp.val = (s.sp.val + 15) % 16 ∧
    ((∀ j, (s.stackAt j).toNat < 4096) → t.pc = s.stackAt s.sp) ∧ s.sameBut t [.pc, .sp]

/-- A CALL, then any code that leaves SP and Stack[SP] as the CALL left them, then a RET: pc is the address after the
CALL and SP is as before, for every SP (41_control_flow.md R148, derived there). The entry the CALL writes and the RET
reads rests on the push order the spec infers (90_conflicts.md C3, notes/assumptions/19.md). -/
def Obligations.CallThenReturnRestoresPcAndSp : Prop :=
  ∀ (nnn : Addr) (x y : Nibble) (s t u : State), s.pc.toNat < 4096 → exec (.call nnn) s = .next t →
    u.sp = t.sp → u.stackAt u.sp = t.stackAt t.sp →
    ∃ r, exec (.ret x y) u = .next r ∧ r.pc = s.pc ∧ r.sp = s.sp

/-- The four register skips: two more bytes modulo 4096 when the condition holds, whatever the skipped word, else pc
stays; no flag (41_control_flow.md R143, R144, R145, R146). The reduction modulo 4096, seen at pc = 0xFFE, is the
spec's decision D5 (notes/assumptions/8.md). -/
def Obligations.RegisterSkipsAddTwo : Prop :=
  ∀ (x y n : Nibble) (nn : Byte) (s : State),
    (∃ t, exec (.seByte x nn) s = .next t ∧ s.sameBut t [.pc] ∧
      t.pc.toNat = if s.reg x = nn then (s.pc.toNat + 2) % 4096 else s.pc.toNat) ∧
    (∃ t, exec (.sneByte x nn) s = .next t ∧ s.sameBut t [.pc] ∧
      t.pc.toNat = if s.reg x ≠ nn then (s.pc.toNat + 2) % 4096 else s.pc.toNat) ∧
    (∃ t, exec (.seReg x y n) s = .next t ∧ s.sameBut t [.pc] ∧
      t.pc.toNat = if s.reg x = s.reg y then (s.pc.toNat + 2) % 4096 else s.pc.toNat) ∧
    (∃ t, exec (.sneReg x y n) s = .next t ∧ s.sameBut t [.pc] ∧
      t.pc.toNat = if s.reg x ≠ s.reg y then (s.pc.toNat + 2) % 4096 else s.pc.toNat)

/-- A cycle that runs a skip, key skips included, moves pc by 4 or by 2 modulo 4096 and by nothing else
(95_test_vectors.md L1.6; 41_control_flow.md R143; 44_keys_timers.md R210). The source gives 4 and 2; that a taken
skip wraps modulo 4096 is the spec's decision D5 (notes/assumptions/8.md). -/
def Obligations.SkipCycleAdvancesByFourOrTwo : Prop :=
  ∀ (s : State) (i : Instr), s.fetchInstr = .ok i →
    (∀ x nn, i = .seByte x nn → ∃ t, step s = .next t ∧
      t.pc.toNat = (s.pc.toNat + if s.reg x = nn then 4 else 2) % 4096) ∧
    (∀ x nn, i = .sneByte x nn → ∃ t, step s = .next t ∧
      t.pc.toNat = (s.pc.toNat + if s.reg x = nn then 2 else 4) % 4096) ∧
    (∀ x y n, i = .seReg x y n → ∃ t, step s = .next t ∧
      t.pc.toNat = (s.pc.toNat + if s.reg x = s.reg y then 4 else 2) % 4096) ∧
    (∀ x y n, i = .sneReg x y n → ∃ t, step s = .next t ∧
      t.pc.toNat = (s.pc.toNat + if s.reg x = s.reg y then 2 else 4) % 4096) ∧
    (∀ x y, i = .skp x y → ∃ t, step s = .next t ∧
      t.pc.toNat = (s.pc.toNat + if s.key (Fin.ofNat 16 (s.reg x).toNat) then 4 else 2) % 4096) ∧
    (∀ x y, i = .sknp x y → ∃ t, step s = .next t ∧
      t.pc.toNat = (s.pc.toNat + if s.key (Fin.ofNat 16 (s.reg x).toNat) then 2 else 4) % 4096)

/-- JP V0, addr: pc is NNN + V0 modulo 4096 (41_control_flow.md R147; the reduction is the spec's decision D5,
notes/assumptions/8.md). -/
def Obligations.JumpWithOffsetAddsV0 : Prop :=
  ∀ (nnn : Addr) (s : State), ∃ t, exec (.jpV0 nnn) s = .next t ∧
    t.pc.toNat = (nnn.toNat + (s.reg 0).toNat) % 4096 ∧ s.sameBut t [.pc]

/-! ## Registers and ALU -/

/-- LD Vx, byte and ADD Vx, byte: the destination alone changes, and no carry is produced (42_alu.md R161, R162). -/
def Obligations.ImmediateLoadAndAdd : Prop :=
  ∀ (x : Nibble) (nn : Byte) (s : State),
    (∃ t, exec (.ldByte x nn) s = .next t ∧ t.reg x = nn ∧ s.regsSameBut t [x] ∧ s.sameBut t [.v]) ∧
    (∃ t, exec (.addByte x nn) s = .next t ∧ (t.reg x).toNat = ((s.reg x).toNat + nn.toNat) % 256 ∧
      s.regsSameBut t [x] ∧ s.sameBut t [.v])

/-- LD Vx, Vy, OR, AND and XOR: the destination alone changes; VF is not reset (42_alu.md R163, R164, R165,
R166). -/
def Obligations.RegisterCopyAndLogic : Prop :=
  ∀ (x y : Nibble) (s : State),
    (∃ t, exec (.ldReg x y) s = .next t ∧ t.reg x = s.reg y ∧ s.regsSameBut t [x] ∧ s.sameBut t [.v]) ∧
    (∃ t, exec (.orReg x y) s = .next t ∧ t.reg x = s.reg x ||| s.reg y ∧ s.regsSameBut t [x] ∧
      s.sameBut t [.v]) ∧
    (∃ t, exec (.andReg x y) s = .next t ∧ t.reg x = s.reg x &&& s.reg y ∧ s.regsSameBut t [x] ∧
      s.sameBut t [.v]) ∧
    (∃ t, exec (.xorReg x y) s = .next t ∧ t.reg x = s.reg x ^^^ s.reg y ∧ s.regsSameBut t [x] ∧
      s.sameBut t [.v])

/-- ADD Vx, Vy: the sum modulo 256, and VF, written last, is 1 exactly if the unmasked sum exceeds 255 (42_alu.md
R167). -/
def Obligations.AddRegistersSetsCarry : Prop :=
  ∀ (x y : Nibble) (s : State), ∃ t, exec (.addReg x y) s = .next t ∧
    (x ≠ 0xF → (t.reg x).toNat = ((s.reg x).toNat + (s.reg y).toNat) % 256) ∧
    t.reg 0xF = (if (s.reg x).toNat + (s.reg y).toNat > 255 then 1#8 else 0#8) ∧
    s.regsSameBut t [x, 0xF] ∧ s.sameBut t [.v]

/-- SUB and SUBN: the difference modulo 256, and VF, written last, is 1 exactly if the minuend is at least the
subtrahend (42_alu.md R168, R169; the order of the two writes is the spec's decision D6,
notes/assumptions/9.md). -/
def Obligations.SubtractionsSetNotBorrow : Prop :=
  ∀ (x y : Nibble) (s : State),
    (∃ t, exec (.subReg x y) s = .next t ∧
      (x ≠ 0xF → (t.reg x).toNat = ((s.reg x).toNat + 256 - (s.reg y).toNat) % 256) ∧
      t.reg 0xF = (if (s.reg x).toNat ≥ (s.reg y).toNat then 1#8 else 0#8) ∧
      s.regsSameBut t [x, 0xF] ∧ s.sameBut t [.v]) ∧
    (∃ t, exec (.subnReg x y) s = .next t ∧
      (x ≠ 0xF → (t.reg x).toNat = ((s.reg y).toNat + 256 - (s.reg x).toNat) % 256) ∧
      t.reg 0xF = (if (s.reg y).toNat ≥ (s.reg x).toNat then 1#8 else 0#8) ∧
      s.regsSameBut t [x, 0xF] ∧ s.sameBut t [.v])

/-- SHR and SHL: VX shifted in place by one, and VF, written last, is the bit shifted out (42_alu.md R170, R171; that
VX and not VY is shifted is the spec's decision D7, notes/assumptions/10.md). That VF is written last is
90_conflicts.md C2 (notes/assumptions/9.md). -/
def Obligations.ShiftsReportTheBitShiftedOut : Prop :=
  ∀ (x y : Nibble) (s : State),
    (∃ t, exec (.shr x y) s = .next t ∧ (x ≠ 0xF → (t.reg x).toNat = (s.reg x).toNat / 2) ∧
      (t.reg 0xF).toNat = (s.reg x).toNat % 2 ∧ s.regsSameBut t [x, 0xF] ∧ s.sameBut t [.v]) ∧
    (∃ t, exec (.shl x y) s = .next t ∧ (x ≠ 0xF → (t.reg x).toNat = 2 * (s.reg x).toNat % 256) ∧
      (t.reg 0xF).toNat = (s.reg x).toNat / 128 ∧ s.regsSameBut t [x, 0xF] ∧ s.sameBut t [.v])

/-- RND Vx, byte: the cycle's draw, a free value, AND the immediate; a mask of 0 gives 0 for every draw (42_alu.md
R172; the draw is the spec's decision D14, notes/assumptions/2.md). -/
def Obligations.RandomIsMaskedByTheImmediate : Prop :=
  ∀ (x : Nibble) (nn : Byte) (s : State), ∃ t, exec (.rnd x nn) s = .next t ∧
    t.reg x = Config.rand s.draws &&& nn ∧ (nn = 0#8 → t.reg x = 0#8) ∧
    s.regsSameBut t [x] ∧ s.sameBut t [.v]

/-- VF over all instructions: ADD Vx Vy, SUB, SUBN, SHR, SHL and DRW leave it 0 or 1; every other instruction leaves
it as it was unless VF is its named destination or one of the registers it loads (10_state.md R32). That SUB and SUBN
with X = F leave the flag is the spec's decision D6 (notes/assumptions/9.md). That the shifts do is 90_conflicts.md C2
(9.md). -/
def Obligations.FlagRegisterWriters : Prop :=
  ∀ (i : Instr) (s t : State), exec i s = .next t →
    ((∃ x y, i = .addReg x y ∨ i = .subReg x y ∨ i = .subnReg x y ∨ i = .shr x y ∨ i = .shl x y ∨
        ∃ n, i = .drw x y n) → t.reg 0xF = 0#8 ∨ t.reg 0xF = 1#8) ∧
    ((¬∃ x y, i = .addReg x y ∨ i = .subReg x y ∨ i = .subnReg x y ∨ i = .shr x y ∨ i = .shl x y ∨
        ∃ n, i = .drw x y n) →
      (∀ nn, i ≠ .ldByte 0xF nn ∧ i ≠ .addByte 0xF nn ∧ i ≠ .rnd 0xF nn) →
      (∀ y, i ≠ .ldReg 0xF y ∧ i ≠ .orReg 0xF y ∧ i ≠ .andReg 0xF y ∧ i ≠ .xorReg 0xF y) →
      i ≠ .ldVxDt 0xF → i ≠ .ldVxK 0xF → i ≠ .ldVxMem 0xF → t.reg 0xF = s.reg 0xF)

/-! ## Framebuffer and sprites -/

/-- CLS: every cell unlit, nothing else changed (43_display.md R190). -/
def Obligations.ClearScreenUnlightsEveryCell : Prop :=
  ∀ (x y : Nibble) (s : State), ∃ t, exec (.cls x y) s = .next t ∧
    (∀ p q, t.pixel p q = false) ∧ s.sameBut t [.fb]

/-- DRW: every on-screen cell is its old value XOR the sprite's bit there, the sprite starting at (VX mod 64,
VY mod 64); VF is 1 exactly if a lit cell meets a set bit, else 0; nothing else changes (43_display.md R191; bit
order D9, no spill D10, modulus D11: notes/assumptions/4.md, 12.md). -/
def Obligations.DrawXorsTheSprite : Prop :=
  ∀ (x y n : Nibble) (s : State), ∃ t, exec (.drw x y n) s = .next t ∧
    (∀ p q, p < 64 → q < 32 → t.pixel p q =
      (s.pixel p q ^^ s.spriteBit ((s.reg x).toNat % 64) ((s.reg y).toNat % 64) n.val p q)) ∧
    (t.reg 0xF = 1#8 ↔ ∃ p q, p < 64 ∧ q < 32 ∧ s.pixel p q = true ∧
      s.spriteBit ((s.reg x).toNat % 64) ((s.reg y).toNat % 64) n.val p q = true) ∧
    (t.reg 0xF = 0#8 ∨ t.reg 0xF = 1#8) ∧ s.regsSameBut t [0xF] ∧ s.sameBut t [.fb, .v]

/-- The collision flag: VF is 1 if some on-screen cell was lit before the DRW and is unlit after it, and 0 otherwise
(43_display.md R194). -/
def Obligations.CollisionMeansALitCellTurnedOff : Prop :=
  ∀ (x y n : Nibble) (s : State), ∃ t, exec (.drw x y n) s = .next t ∧
    ((∃ p q, p < 64 ∧ q < 32 ∧ s.pixel p q = true ∧ t.pixel p q = false) → t.reg 0xF = 1#8) ∧
    ((¬∃ p q, p < 64 ∧ q < 32 ∧ s.pixel p q = true ∧ t.pixel p q = false) → t.reg 0xF = 0#8)

/-- Clipping: a DRW changes only on-screen cells of its own rectangle, 8 columns by n rows from the reduced start; in
particular a sprite over the right or bottom edge changes nothing at the left or top, and one that is wholly off
the screen changes no cell and is no collision; and a pixel dropped at an edge causes no collision, so VF is 0 unless a
set bit on the screen meets a lit cell (43_display.md R193). The start modulo 64 is the spec's decision D11
(notes/assumptions/4.md), the columns x0 to x0 + 7 its decision D10 and the bit order D9 (notes/assumptions/12.md). -/
def Obligations.DrawIsClippedAtTheEdges : Prop :=
  ∀ (x y n : Nibble) (s : State), ∃ t, exec (.drw x y n) s = .next t ∧
    (∀ p q, t.pixel p q ≠ s.pixel p q →
      (s.reg x).toNat % 64 ≤ p ∧ p < (s.reg x).toNat % 64 + 8 ∧ p < 64 ∧
      (s.reg y).toNat % 64 ≤ q ∧ q < (s.reg y).toNat % 64 + n.val ∧ q < 32) ∧
    (32 ≤ (s.reg y).toNat % 64 → (∀ p q, t.pixel p q = s.pixel p q) ∧ t.reg 0xF = 0#8) ∧
    ((∀ p q, p < 64 → q < 32 →
      s.spriteBit ((s.reg x).toNat % 64) ((s.reg y).toNat % 64) n.val p q = true → s.pixel p q = false) →
      t.reg 0xF = 0#8)

/-- Drawing one sprite twice at one place restores the framebuffer, and the second VF is 1 exactly if the first draw
lit a cell; between the draws I, the sprite's bytes, VX, VY and the framebuffer are kept (43_display.md R195,
derived there). -/
def Obligations.DrawingTwiceRestoresTheFramebuffer : Prop :=
  ∀ (x y n : Nibble) (s t u w : State), exec (.drw x y n) s = .next t →
    u.i = s.i → (∀ r, r < n.val → u.readByte (s.i.toNat + r) = s.readByte (s.i.toNat + r)) →
    u.reg x = s.reg x → u.reg y = s.reg y → (∀ p q, u.pixel p q = t.pixel p q) →
    exec (.drw x y n) u = .next w →
    (∀ p q, w.pixel p q = s.pixel p q) ∧
    (w.reg 0xF = 1#8 ↔ ∃ p q, p < 64 ∧ q < 32 ∧ s.pixel p q = false ∧ t.pixel p q = true)

/-- The parameter DRAW_Y_MOD: where VY mod 64 is a row of the screen, 64 and 32 give one result; else the default 64
draws nothing and clears VF, and 32 draws from row VY mod 32 (43_display.md R196; the spec's decision D11,
notes/assumptions/4.md). The sprite's bits are those of its decisions D9 and D10 (notes/assumptions/12.md). -/
def Obligations.DrawYModulusMattersBelowTheScreenOnly : Prop :=
  ∀ (x y n : Nibble) (s : State),
    ((s.reg y).toNat % 64 < 32 → s.drawSprite 64 x y n.val = s.drawSprite 32 x y n.val) ∧
    (32 ≤ (s.reg y).toNat % 64 →
      (∀ p q, (s.drawSprite 64 x y n.val).pixel p q = s.pixel p q) ∧
      (s.drawSprite 64 x y n.val).reg 0xF = 0#8 ∧
      ∀ p q, p < 64 → q < 32 → (s.drawSprite 32 x y n.val).pixel p q =
        (s.pixel p q ^^ s.spriteBit ((s.reg x).toNat % 64) ((s.reg y).toNat % 32) n.val p q))

/-! ## Keys and timers -/

/-- SKP and SKNP: the key VX mod 16 decides (44_keys_timers.md R210, R211). The reduction of a taken skip modulo 4096
is the spec's decision D5 (notes/assumptions/8.md). -/
def Obligations.KeySkipsTestTheMaskedKey : Prop :=
  ∀ (x y : Nibble) (s : State),
    (∃ t, exec (.skp x y) s = .next t ∧ s.sameBut t [.pc] ∧
      t.pc.toNat = if s.key (Fin.ofNat 16 (s.reg x).toNat) then (s.pc.toNat + 2) % 4096 else s.pc.toNat) ∧
    (∃ t, exec (.sknp x y) s = .next t ∧ s.sameBut t [.pc] ∧
      t.pc.toNat = if s.key (Fin.ofNat 16 (s.reg x).toNat) then s.pc.toNat else (s.pc.toNat + 2) % 4096)

/-- LD Vx, K: with a key pressed, VX is the least pressed key and pc stays; with none, pc goes back by 2 modulo 4096
and VX stays (44_keys_timers.md R213). The reduction of the step back modulo 4096 is the spec's decision D5
(notes/assumptions/8.md). -/
def Obligations.WaitForKeyTakesTheLeastKeyOrRepeats : Prop :=
  ∀ (x : Nibble) (s : State),
    (∀ k, s.key k = true → (∀ j, j < k → s.key j = false) →
      ∃ t, exec (.ldVxK x) s = .next t ∧ (t.reg x).toNat = k.val ∧ s.regsSameBut t [x] ∧ s.sameBut t [.v]) ∧
    ((∀ k, s.key k = false) →
      ∃ t, exec (.ldVxK x) s = .next t ∧ t.pc.toNat = (s.pc.toNat + 4094) % 4096 ∧ s.sameBut t [.pc])

/-- LD Vx, DT reads DT before the cycle's tick; LD DT, Vx and LD ST, Vx write a timer, and the tick at the end of the
same cycle applies to the value written (44_keys_timers.md R212, R214, R215). -/
def Obligations.TimerReadsAndWrites : Prop :=
  ∀ (x : Nibble) (s : State),
    (∃ t, exec (.ldVxDt x) s = .next t ∧ t.reg x = s.dt ∧ s.regsSameBut t [x] ∧ s.sameBut t [.v] ∧
      t.endCycle.dt.toNat = s.dt.toNat - 1) ∧
    (∃ t, exec (.ldDtVx x) s = .next t ∧ t.dt = s.reg x ∧ s.sameBut t [.dt] ∧
      t.endCycle.dt.toNat = (s.reg x).toNat - 1) ∧
    (∃ t, exec (.ldStVx x) s = .next t ∧ t.st = s.reg x ∧ s.sameBut t [.st] ∧
      t.endCycle.st.toNat = (s.reg x).toNat - 1)

/-! ## Index register and memory -/

/-- LD I, addr: I is NNN, bits 15:12 zero (45_index_memory.md R230). -/
def Obligations.LoadIndexTakesTheAddress : Prop :=
  ∀ (nnn : Addr) (s : State), ∃ t, exec (.ldI nnn) s = .next t ∧ t.i.toNat = nnn.toNat ∧ s.sameBut t [.i]

/-- ADD I, Vx adds modulo 65536 without a flag; LD F, Vx is five times the whole register (45_index_memory.md R231,
R232; the width and the missing mask are the spec's decisions D23 and D22, notes/assumptions/17.md, 16.md). -/
def Obligations.IndexArithmetic : Prop :=
  ∀ (x : Nibble) (s : State),
    (∃ t, exec (.addI x) s = .next t ∧ t.i.toNat = (s.i.toNat + (s.reg x).toNat) % 65536 ∧ s.sameBut t [.i]) ∧
    (∃ t, exec (.ldF x) s = .next t ∧ t.i.toNat = 5 * (s.reg x).toNat ∧ s.sameBut t [.i])

/-- LD B, Vx: hundreds, tens and units at I, I + 1 and I + 2 modulo 4096, each a decimal digit and the hundreds at
most 2; I and every other byte are unchanged (45_index_memory.md R233). That no stored byte is a stack entry is the
spec's decision D21 (notes/assumptions/15.md); the premise that memory is canonical is about the model's form of
memory (23.md). -/
def Obligations.BcdStoreWritesThreeDigits : Prop :=
  ∀ (x : Nibble) (s : State), s.mem.wf = true → ∃ t, exec (.ldB x) s = .next t ∧
    (t.readByte (s.indexed 0)).toNat = (s.reg x).toNat / 100 ∧
    (t.readByte (s.indexed 1)).toNat = (s.reg x).toNat / 10 % 10 ∧
    (t.readByte (s.indexed 2)).toNat = (s.reg x).toNat % 10 ∧
    (t.readByte (s.indexed 0)).toNat ≤ 2 ∧ s.memSameOutside t (s.indexed 0) 3 ∧ s.sameBut t [.mem]

/-- LD [I], Vx: V0 to VX, VX included, at I, I + 1, …, I + X modulo 4096; every other byte and I are unchanged
(45_index_memory.md R234; I unchanged is the spec's decision D8, notes/assumptions/11.md). That no stored byte is a
stack entry is the spec's decision D21 (notes/assumptions/15.md); the premise that memory is canonical is about the
model's form of memory (23.md). -/
def Obligations.RegisterDumpStoresV0ToVX : Prop :=
  ∀ (x : Nibble) (s : State), s.mem.wf = true → ∃ t, exec (.ldMemVx x) s = .next t ∧
    (∀ k, k ≤ x → t.readByte (s.indexed k.val) = s.reg k) ∧
    s.memSameOutside t (s.indexed 0) (x.val + 1) ∧ s.sameBut t [.mem]

/-- LD Vx, [I]: V0 to VX, VX included, from I, I + 1, …, I + X modulo 4096; every other register, I and memory are
unchanged (45_index_memory.md R235; D8, notes/assumptions/11.md). -/
def Obligations.RegisterLoadFillsV0ToVX : Prop :=
  ∀ (x : Nibble) (s : State), ∃ t, exec (.ldVxMem x) s = .next t ∧
    (∀ k, k ≤ x → t.reg k = s.readByte (s.indexed k.val)) ∧ (∀ k, x < k → t.reg k = s.reg k) ∧
    s.sameBut t [.v]

/-- A dump, then any code that keeps I and the dumped bytes, then a load of the same registers, leaves V0 to VX as
they were at the dump (45_index_memory.md R236, derived there). I is taken after the dump, so the statement rests on
the dump leaving I unchanged, the spec's decision D8 (notes/assumptions/11.md); the premise that memory is canonical
is about the model's form of memory (23.md). -/
def Obligations.DumpThenLoadRestoresRegisters : Prop :=
  ∀ (x : Nibble) (s t u w : State), s.mem.wf = true → exec (.ldMemVx x) s = .next t → u.i = t.i →
    (∀ k : Nat, k ≤ x.val → u.readByte (t.indexed k) = t.readByte (t.indexed k)) →
    exec (.ldVxMem x) u = .next w → ∀ k, k ≤ x → w.reg k = s.reg k

/-- Bits 15:12 of I never change which byte is accessed: with I replaced by a value equal to it modulo 4096, every
instruction that reaches memory does the same, but for I itself (10_state.md R37; 20_memory.md R62). That LD [I], Vx
and LD Vx, [I] leave I itself unchanged is the spec's decision D8 (notes/assumptions/11.md). -/
def Obligations.HighBitsOfIndexDoNotAddress : Prop :=
  ∀ (s : State) (a : Word), a.toNat % 4096 = s.i.toNat % 4096 → ∀ (x y n : Nibble),
    exec (.drw x y n) (s.setIndex a) = mapNext (fun t => t.setIndex a) (exec (.drw x y n) s) ∧
    exec (.ldB x) (s.setIndex a) = mapNext (fun t => t.setIndex a) (exec (.ldB x) s) ∧
    exec (.ldMemVx x) (s.setIndex a) = mapNext (fun t => t.setIndex a) (exec (.ldMemVx x) s) ∧
    exec (.ldVxMem x) (s.setIndex a) = mapNext (fun t => t.setIndex a) (exec (.ldVxMem x) s)

/-- Canonical memories that read alike at every address are one list, so equal memories are equal data
(20_memory.md section 1; the form is the model's, notes/assumptions/23.md). -/
def Obligations.CanonicalMemoriesReadingAlikeAreEqual : Prop :=
  ∀ m n : Memory, m.wf = true → n.wf = true → (∀ a, a < 4096 → m.read a = n.read a) → m = n

/-! ## Who writes and who reads each piece of state -/

/-- Every instruction leaves alone every component outside its list (10_state.md R31, R37 to R43;
20_memory.md R60; 40_cycle_engine.md R126). That LD [I], Vx and LD Vx, [I] leave I unchanged is the spec's decision D8
(notes/assumptions/11.md), and that a store to memory leaves the stack, and a CALL memory, unchanged its decision D21
(15.md). -/
def Obligations.InstructionsWriteOnlyTheirComponents : Prop :=
  ∀ (i : Instr) (s t : State), exec i s = .next t → s.sameBut t (writesOf i)

/-- Only CALL writes Stack, only RET reads it, no entry is cleared, and an entry stays below 0x1000 because pc is
(10_state.md R38). That the entry a CALL overwrites is the one at SP + 1 rests on the push order the spec infers
(90_conflicts.md C3, notes/assumptions/19.md). That no store to memory writes an entry is the spec's decision D21
(15.md). -/
def Obligations.StackIsWrittenByCallAndReadByReturn : Prop :=
  (∀ (i : Instr) (s t : State), exec i s = .next t → (∀ nnn, i ≠ .call nnn) → ∀ j, t.stackAt j = s.stackAt j) ∧
  (∀ (i : Instr) (s : State) (j : Nibble) (a : Word), (∀ x y, i ≠ .ret x y) → (∀ nnn, i ≠ .call nnn) →
    exec i (s.setStackAt j a) = mapNext (fun t => t.setStackAt j a) (exec i s)) ∧
  (∀ (nnn : Addr) (s : State) (j : Nibble) (a : Word), j ≠ s.sp + 1 →
    exec (.call nnn) (s.setStackAt j a) = mapNext (fun t => t.setStackAt j a) (exec (.call nnn) s)) ∧
  (∀ (nnn : Addr) (s : State) (a : Word),
    exec (.call nnn) (s.setStackAt (s.sp + 1) a) = exec (.call nnn) s) ∧
  (∀ (i : Instr) (s t : State), s.pc.toNat < 4096 → (∀ j, (s.stackAt j).toNat < 4096) → exec i s = .next t →
    ∀ j, (t.stackAt j).toNat < 4096)

/-- Only LD DT, Vx writes DT and only LD Vx, DT reads it, in its handler (10_state.md R40); only LD ST, Vx writes ST,
and no instruction reads it (R41). The tick at the end of a cycle is stated in TimersTickInEveryCycle. -/
def Obligations.TimersAreReadAndWrittenByTheirLoadsOnly : Prop :=
  ∀ (i : Instr) (s : State) (b : Byte),
    (∀ t, exec i s = .next t →
      ((∀ x, i ≠ .ldDtVx x) → t.dt = s.dt) ∧ ((∀ x, i ≠ .ldStVx x) → t.st = s.st)) ∧
    ((∀ x, i ≠ .ldDtVx x) → (∀ x, i ≠ .ldVxDt x) →
      exec i (s.setDt b) = mapNext (fun t => t.setDt b) (exec i s)) ∧
    (∀ x, i = .ldDtVx x → exec i (s.setDt b) = exec i s) ∧
    ((∀ x, i ≠ .ldStVx x) → exec i (s.setSt b) = mapNext (fun t => t.setSt b) (exec i s)) ∧
    (∀ x, i = .ldStVx x → exec i (s.setSt b) = exec i s)

/-- Only SKP, SKNP and LD Vx, K read the key latch: every other instruction does the same whatever the keys are
(10_state.md R42). -/
def Obligations.KeysAreReadByThreeInstructionsOnly : Prop :=
  ∀ (i : Instr) (s : State) (ks : Vector Bool 16), (∀ x y, i ≠ .skp x y ∧ i ≠ .sknp x y) → (∀ x, i ≠ .ldVxK x) →
    exec i { s with keys := ks } = mapNext (fun t => { t with keys := ks }) (exec i s)

/-- Only CLS and DRW write the framebuffer, and only DRW reads it: every other instruction does the same whatever is
on the screen, and so does CLS but for the screen it leaves (10_state.md R43). -/
def Obligations.FramebufferIsReadByDrawOnly : Prop :=
  ∀ (i : Instr) (s : State) (fb : Framebuffer),
    ((∀ x y, i ≠ .cls x y) → (∀ x y n, i ≠ .drw x y n) →
      exec i (s.setFb fb) = mapNext (fun t => t.setFb fb) (exec i s)) ∧
    (∀ x y, i = .cls x y → exec i (s.setFb fb) = exec i s)

/-- Only RND reads the random draw: every other handler does the same whichever draw the cycle takes
(40_cycle_engine.md R128; the draw counter is the model's, notes/assumptions/2.md). -/
def Obligations.DrawIsReadByRandomOnly : Prop :=
  ∀ (i : Instr) (s : State) (n : Nat), (∀ x nn, i ≠ .rnd x nn) →
    exec i { s with draws := n } = mapNext (fun t => { t with draws := n }) (exec i s)

/-- Only the fetch, DRW and LD Vx, [I] read memory: every other instruction leaves, of any two states that differ in
memory alone, the same registers, timers, stack and screen, and what it stores is no function of a byte it read: each
byte is afterwards the same in both, or in each still the byte held before (20_memory.md R60). Both memories are in
canonical form for the bytes, a form every cycle keeps (CycleKeepsInvariant). The form is the model's
(notes/assumptions/23.md); that RET reads no memory is the spec's decision D21 (15.md). -/
def Obligations.MemoryIsReadByDrawAndLoadOnly : Prop :=
  ∀ (i : Instr) (s t u : State) (m : Memory), (∀ x y n, i ≠ .drw x y n) → (∀ x, i ≠ .ldVxMem x) →
    exec i s = .next t → exec i { s with mem := m } = .next u →
    { u with mem := t.mem } = t ∧
    (s.mem.wf = true → m.wf = true → ∀ a, t.readByte a = u.readByte a ∨
      (t.readByte a = s.readByte a ∧ u.readByte a = State.readByte { s with mem := m } a))
end

