-- ==== Sys2Proof/Laws/Decode.lean ====
section
/-! SUPPORT. The fields of a packed word, and a word from its fields (30_encoding.md R91). -/

namespace Sys2Proof

theorem packXYN_toNat (op x y n : Nibble) :
    (packXYN op x y n).toNat = op.val * 4096 + x.val * 256 + y.val * 16 + n.val := by
  simp only [packXYN, BitVec.toNat_ofNat]
  omega

theorem packXNN_toNat (op x : Nibble) (nn : Byte) :
    (packXNN op x nn).toNat = op.val * 4096 + x.val * 256 + nn.toNat := by
  have := nn.isLt
  simp only [packXNN, BitVec.toNat_ofNat]
  omega

theorem packNNN_toNat (op : Nibble) (nnn : Addr) : (packNNN op nnn).toNat = op.val * 4096 + nnn.toNat := by
  have := nnn.isLt
  simp only [packNNN, BitVec.toNat_ofNat]
  omega

theorem fieldOp_val (w : Word) : (fieldOp w).val = w.toNat / 4096 % 16 := by
  simp [fieldOp, nibbleAt, bits]

theorem fieldX_val (w : Word) : (fieldX w).val = w.toNat / 256 % 16 := by
  simp [fieldX, nibbleAt, bits]

theorem fieldY_val (w : Word) : (fieldY w).val = w.toNat / 16 % 16 := by
  simp [fieldY, nibbleAt, bits]

theorem fieldN_val (w : Word) : (fieldN w).val = w.toNat % 16 := by
  simp [fieldN, nibbleAt, bits]

theorem fieldNN_toNat (w : Word) : (fieldNN w).toNat = w.toNat % 256 := by
  simp [fieldNN, bits]

theorem fieldNNN_toNat (w : Word) : (fieldNNN w).toNat = w.toNat % 4096 := by
  simp [fieldNNN, bits]

/-- A word is its four nibbles. -/
theorem packXYN_fields (w : Word) : packXYN (fieldOp w) (fieldX w) (fieldY w) (fieldN w) = w := by
  apply BitVec.eq_of_toNat_eq
  have := w.isLt
  rw [packXYN_toNat, fieldOp_val, fieldX_val, fieldY_val, fieldN_val]
  omega

theorem packXNN_fields (w : Word) : packXNN (fieldOp w) (fieldX w) (fieldNN w) = w := by
  apply BitVec.eq_of_toNat_eq
  have := w.isLt
  rw [packXNN_toNat, fieldOp_val, fieldX_val, fieldNN_toNat]
  omega

theorem packNNN_fields (w : Word) : packNNN (fieldOp w) (fieldNNN w) = w := by
  apply BitVec.eq_of_toNat_eq
  have := w.isLt
  rw [packNNN_toNat, fieldOp_val, fieldNNN_toNat]
  omega

/-! ### The fields of a packed word -/

@[simp] theorem fieldOp_packXYN (op x y n : Nibble) : fieldOp (packXYN op x y n) = op := by
  apply Fin.ext; rw [fieldOp_val, packXYN_toNat]; omega

@[simp] theorem fieldX_packXYN (op x y n : Nibble) : fieldX (packXYN op x y n) = x := by
  apply Fin.ext; rw [fieldX_val, packXYN_toNat]; omega

@[simp] theorem fieldY_packXYN (op x y n : Nibble) : fieldY (packXYN op x y n) = y := by
  apply Fin.ext; rw [fieldY_val, packXYN_toNat]; omega

@[simp] theorem fieldN_packXYN (op x y n : Nibble) : fieldN (packXYN op x y n) = n := by
  apply Fin.ext; rw [fieldN_val, packXYN_toNat]; omega

/-- NN is Y ++ N (30_encoding.md R91). -/
theorem fieldNN_packXYN (op x y n : Nibble) : (fieldNN (packXYN op x y n)).toNat = y.val * 16 + n.val := by
  rw [fieldNN_toNat, packXYN_toNat]; omega

@[simp] theorem fieldOp_packXNN (op x : Nibble) (nn : Byte) : fieldOp (packXNN op x nn) = op := by
  have := nn.isLt
  apply Fin.ext; rw [fieldOp_val, packXNN_toNat]; omega

@[simp] theorem fieldX_packXNN (op x : Nibble) (nn : Byte) : fieldX (packXNN op x nn) = x := by
  have := nn.isLt
  apply Fin.ext; rw [fieldX_val, packXNN_toNat]; omega

@[simp] theorem fieldNN_packXNN (op x : Nibble) (nn : Byte) : fieldNN (packXNN op x nn) = nn := by
  have := nn.isLt
  apply BitVec.eq_of_toNat_eq; rw [fieldNN_toNat, packXNN_toNat]; omega

@[simp] theorem fieldOp_packNNN (op : Nibble) (nnn : Addr) : fieldOp (packNNN op nnn) = op := by
  have := nnn.isLt
  apply Fin.ext; rw [fieldOp_val, packNNN_toNat]; omega

@[simp] theorem fieldNNN_packNNN (op : Nibble) (nnn : Addr) : fieldNNN (packNNN op nnn) = nnn := by
  have := nnn.isLt
  apply BitVec.eq_of_toNat_eq; rw [fieldNNN_toNat, packNNN_toNat]; omega

end Sys2Proof
end

