-- ==== Sys2Proof/Laws/State.lean ====
section
/-! SUPPORT. One lemma for each field under each update of the state, all true by rfl, then the accessors under
the updates, so that no later proof unfolds a record update. -/

namespace Sys2Proof.Machine

/-! ### `State.setReg` -/

@[simp] theorem State.setReg_mem (s : State) (x : Nibble) (b : Byte) : (s.setReg x b).mem = s.mem := rfl
@[simp] theorem State.setReg_v (s : State) (x : Nibble) (b : Byte) : (s.setReg x b).v = s.v.set x.val b x.isLt := rfl
@[simp] theorem State.setReg_i (s : State) (x : Nibble) (b : Byte) : (s.setReg x b).i = s.i := rfl
@[simp] theorem State.setReg_pc (s : State) (x : Nibble) (b : Byte) : (s.setReg x b).pc = s.pc := rfl
@[simp] theorem State.setReg_sp (s : State) (x : Nibble) (b : Byte) : (s.setReg x b).sp = s.sp := rfl
@[simp] theorem State.setReg_stack (s : State) (x : Nibble) (b : Byte) : (s.setReg x b).stack = s.stack := rfl
@[simp] theorem State.setReg_dt (s : State) (x : Nibble) (b : Byte) : (s.setReg x b).dt = s.dt := rfl
@[simp] theorem State.setReg_st (s : State) (x : Nibble) (b : Byte) : (s.setReg x b).st = s.st := rfl
@[simp] theorem State.setReg_keys (s : State) (x : Nibble) (b : Byte) : (s.setReg x b).keys = s.keys := rfl
@[simp] theorem State.setReg_fb (s : State) (x : Nibble) (b : Byte) : (s.setReg x b).fb = s.fb := rfl
@[simp] theorem State.setReg_draws (s : State) (x : Nibble) (b : Byte) : (s.setReg x b).draws = s.draws := rfl

/-! ### `State.setIndex` -/

@[simp] theorem State.setIndex_mem (s : State) (a : Word) : (s.setIndex a).mem = s.mem := rfl
@[simp] theorem State.setIndex_v (s : State) (a : Word) : (s.setIndex a).v = s.v := rfl
@[simp] theorem State.setIndex_i (s : State) (a : Word) : (s.setIndex a).i = a := rfl
@[simp] theorem State.setIndex_pc (s : State) (a : Word) : (s.setIndex a).pc = s.pc := rfl
@[simp] theorem State.setIndex_sp (s : State) (a : Word) : (s.setIndex a).sp = s.sp := rfl
@[simp] theorem State.setIndex_stack (s : State) (a : Word) : (s.setIndex a).stack = s.stack := rfl
@[simp] theorem State.setIndex_dt (s : State) (a : Word) : (s.setIndex a).dt = s.dt := rfl
@[simp] theorem State.setIndex_st (s : State) (a : Word) : (s.setIndex a).st = s.st := rfl
@[simp] theorem State.setIndex_keys (s : State) (a : Word) : (s.setIndex a).keys = s.keys := rfl
@[simp] theorem State.setIndex_fb (s : State) (a : Word) : (s.setIndex a).fb = s.fb := rfl
@[simp] theorem State.setIndex_draws (s : State) (a : Word) : (s.setIndex a).draws = s.draws := rfl

/-! ### `State.setPc` -/

@[simp] theorem State.setPc_mem (s : State) (a : Word) : (s.setPc a).mem = s.mem := rfl
@[simp] theorem State.setPc_v (s : State) (a : Word) : (s.setPc a).v = s.v := rfl
@[simp] theorem State.setPc_i (s : State) (a : Word) : (s.setPc a).i = s.i := rfl
@[simp] theorem State.setPc_pc (s : State) (a : Word) : (s.setPc a).pc = a % 4096#16 := rfl
@[simp] theorem State.setPc_sp (s : State) (a : Word) : (s.setPc a).sp = s.sp := rfl
@[simp] theorem State.setPc_stack (s : State) (a : Word) : (s.setPc a).stack = s.stack := rfl
@[simp] theorem State.setPc_dt (s : State) (a : Word) : (s.setPc a).dt = s.dt := rfl
@[simp] theorem State.setPc_st (s : State) (a : Word) : (s.setPc a).st = s.st := rfl
@[simp] theorem State.setPc_keys (s : State) (a : Word) : (s.setPc a).keys = s.keys := rfl
@[simp] theorem State.setPc_fb (s : State) (a : Word) : (s.setPc a).fb = s.fb := rfl
@[simp] theorem State.setPc_draws (s : State) (a : Word) : (s.setPc a).draws = s.draws := rfl

/-! ### `State.setSp` -/

@[simp] theorem State.setSp_mem (s : State) (p : Nibble) : (s.setSp p).mem = s.mem := rfl
@[simp] theorem State.setSp_v (s : State) (p : Nibble) : (s.setSp p).v = s.v := rfl
@[simp] theorem State.setSp_i (s : State) (p : Nibble) : (s.setSp p).i = s.i := rfl
@[simp] theorem State.setSp_pc (s : State) (p : Nibble) : (s.setSp p).pc = s.pc := rfl
@[simp] theorem State.setSp_sp (s : State) (p : Nibble) : (s.setSp p).sp = p := rfl
@[simp] theorem State.setSp_stack (s : State) (p : Nibble) : (s.setSp p).stack = s.stack := rfl
@[simp] theorem State.setSp_dt (s : State) (p : Nibble) : (s.setSp p).dt = s.dt := rfl
@[simp] theorem State.setSp_st (s : State) (p : Nibble) : (s.setSp p).st = s.st := rfl
@[simp] theorem State.setSp_keys (s : State) (p : Nibble) : (s.setSp p).keys = s.keys := rfl
@[simp] theorem State.setSp_fb (s : State) (p : Nibble) : (s.setSp p).fb = s.fb := rfl
@[simp] theorem State.setSp_draws (s : State) (p : Nibble) : (s.setSp p).draws = s.draws := rfl

/-! ### `State.setStackAt` -/

@[simp] theorem State.setStackAt_mem (s : State) (j : Nibble) (a : Word) : (s.setStackAt j a).mem = s.mem := rfl
@[simp] theorem State.setStackAt_v (s : State) (j : Nibble) (a : Word) : (s.setStackAt j a).v = s.v := rfl
@[simp] theorem State.setStackAt_i (s : State) (j : Nibble) (a : Word) : (s.setStackAt j a).i = s.i := rfl
@[simp] theorem State.setStackAt_pc (s : State) (j : Nibble) (a : Word) : (s.setStackAt j a).pc = s.pc := rfl
@[simp] theorem State.setStackAt_sp (s : State) (j : Nibble) (a : Word) : (s.setStackAt j a).sp = s.sp := rfl
@[simp] theorem State.setStackAt_stack (s : State) (j : Nibble) (a : Word) : (s.setStackAt j a).stack = s.stack.set j.val a j.isLt := rfl
@[simp] theorem State.setStackAt_dt (s : State) (j : Nibble) (a : Word) : (s.setStackAt j a).dt = s.dt := rfl
@[simp] theorem State.setStackAt_st (s : State) (j : Nibble) (a : Word) : (s.setStackAt j a).st = s.st := rfl
@[simp] theorem State.setStackAt_keys (s : State) (j : Nibble) (a : Word) : (s.setStackAt j a).keys = s.keys := rfl
@[simp] theorem State.setStackAt_fb (s : State) (j : Nibble) (a : Word) : (s.setStackAt j a).fb = s.fb := rfl
@[simp] theorem State.setStackAt_draws (s : State) (j : Nibble) (a : Word) : (s.setStackAt j a).draws = s.draws := rfl

/-! ### `State.setDt` -/

@[simp] theorem State.setDt_mem (s : State) (b : Byte) : (s.setDt b).mem = s.mem := rfl
@[simp] theorem State.setDt_v (s : State) (b : Byte) : (s.setDt b).v = s.v := rfl
@[simp] theorem State.setDt_i (s : State) (b : Byte) : (s.setDt b).i = s.i := rfl
@[simp] theorem State.setDt_pc (s : State) (b : Byte) : (s.setDt b).pc = s.pc := rfl
@[simp] theorem State.setDt_sp (s : State) (b : Byte) : (s.setDt b).sp = s.sp := rfl
@[simp] theorem State.setDt_stack (s : State) (b : Byte) : (s.setDt b).stack = s.stack := rfl
@[simp] theorem State.setDt_dt (s : State) (b : Byte) : (s.setDt b).dt = b := rfl
@[simp] theorem State.setDt_st (s : State) (b : Byte) : (s.setDt b).st = s.st := rfl
@[simp] theorem State.setDt_keys (s : State) (b : Byte) : (s.setDt b).keys = s.keys := rfl
@[simp] theorem State.setDt_fb (s : State) (b : Byte) : (s.setDt b).fb = s.fb := rfl
@[simp] theorem State.setDt_draws (s : State) (b : Byte) : (s.setDt b).draws = s.draws := rfl

/-! ### `State.setSt` -/

@[simp] theorem State.setSt_mem (s : State) (b : Byte) : (s.setSt b).mem = s.mem := rfl
@[simp] theorem State.setSt_v (s : State) (b : Byte) : (s.setSt b).v = s.v := rfl
@[simp] theorem State.setSt_i (s : State) (b : Byte) : (s.setSt b).i = s.i := rfl
@[simp] theorem State.setSt_pc (s : State) (b : Byte) : (s.setSt b).pc = s.pc := rfl
@[simp] theorem State.setSt_sp (s : State) (b : Byte) : (s.setSt b).sp = s.sp := rfl
@[simp] theorem State.setSt_stack (s : State) (b : Byte) : (s.setSt b).stack = s.stack := rfl
@[simp] theorem State.setSt_dt (s : State) (b : Byte) : (s.setSt b).dt = s.dt := rfl
@[simp] theorem State.setSt_st (s : State) (b : Byte) : (s.setSt b).st = b := rfl
@[simp] theorem State.setSt_keys (s : State) (b : Byte) : (s.setSt b).keys = s.keys := rfl
@[simp] theorem State.setSt_fb (s : State) (b : Byte) : (s.setSt b).fb = s.fb := rfl
@[simp] theorem State.setSt_draws (s : State) (b : Byte) : (s.setSt b).draws = s.draws := rfl

/-! ### `State.setKey` -/

@[simp] theorem State.setKey_mem (s : State) (k : Nibble) (p : Bool) : (s.setKey k p).mem = s.mem := rfl
@[simp] theorem State.setKey_v (s : State) (k : Nibble) (p : Bool) : (s.setKey k p).v = s.v := rfl
@[simp] theorem State.setKey_i (s : State) (k : Nibble) (p : Bool) : (s.setKey k p).i = s.i := rfl
@[simp] theorem State.setKey_pc (s : State) (k : Nibble) (p : Bool) : (s.setKey k p).pc = s.pc := rfl
@[simp] theorem State.setKey_sp (s : State) (k : Nibble) (p : Bool) : (s.setKey k p).sp = s.sp := rfl
@[simp] theorem State.setKey_stack (s : State) (k : Nibble) (p : Bool) : (s.setKey k p).stack = s.stack := rfl
@[simp] theorem State.setKey_dt (s : State) (k : Nibble) (p : Bool) : (s.setKey k p).dt = s.dt := rfl
@[simp] theorem State.setKey_st (s : State) (k : Nibble) (p : Bool) : (s.setKey k p).st = s.st := rfl
@[simp] theorem State.setKey_keys (s : State) (k : Nibble) (p : Bool) : (s.setKey k p).keys = s.keys.set k.val p k.isLt := rfl
@[simp] theorem State.setKey_fb (s : State) (k : Nibble) (p : Bool) : (s.setKey k p).fb = s.fb := rfl
@[simp] theorem State.setKey_draws (s : State) (k : Nibble) (p : Bool) : (s.setKey k p).draws = s.draws := rfl

/-! ### `State.setFb` -/

@[simp] theorem State.setFb_mem (s : State) (fb : Framebuffer) : (s.setFb fb).mem = s.mem := rfl
@[simp] theorem State.setFb_v (s : State) (fb : Framebuffer) : (s.setFb fb).v = s.v := rfl
@[simp] theorem State.setFb_i (s : State) (fb : Framebuffer) : (s.setFb fb).i = s.i := rfl
@[simp] theorem State.setFb_pc (s : State) (fb : Framebuffer) : (s.setFb fb).pc = s.pc := rfl
@[simp] theorem State.setFb_sp (s : State) (fb : Framebuffer) : (s.setFb fb).sp = s.sp := rfl
@[simp] theorem State.setFb_stack (s : State) (fb : Framebuffer) : (s.setFb fb).stack = s.stack := rfl
@[simp] theorem State.setFb_dt (s : State) (fb : Framebuffer) : (s.setFb fb).dt = s.dt := rfl
@[simp] theorem State.setFb_st (s : State) (fb : Framebuffer) : (s.setFb fb).st = s.st := rfl
@[simp] theorem State.setFb_keys (s : State) (fb : Framebuffer) : (s.setFb fb).keys = s.keys := rfl
@[simp] theorem State.setFb_fb (s : State) (fb : Framebuffer) : (s.setFb fb).fb = fb := rfl
@[simp] theorem State.setFb_draws (s : State) (fb : Framebuffer) : (s.setFb fb).draws = s.draws := rfl

/-! ### `State.writeByte` -/

@[simp] theorem State.writeByte_mem (s : State) (a : Nat) (b : Byte) : (s.writeByte a b).mem = s.mem.write (a % memSize) b := rfl
@[simp] theorem State.writeByte_v (s : State) (a : Nat) (b : Byte) : (s.writeByte a b).v = s.v := rfl
@[simp] theorem State.writeByte_i (s : State) (a : Nat) (b : Byte) : (s.writeByte a b).i = s.i := rfl
@[simp] theorem State.writeByte_pc (s : State) (a : Nat) (b : Byte) : (s.writeByte a b).pc = s.pc := rfl
@[simp] theorem State.writeByte_sp (s : State) (a : Nat) (b : Byte) : (s.writeByte a b).sp = s.sp := rfl
@[simp] theorem State.writeByte_stack (s : State) (a : Nat) (b : Byte) : (s.writeByte a b).stack = s.stack := rfl
@[simp] theorem State.writeByte_dt (s : State) (a : Nat) (b : Byte) : (s.writeByte a b).dt = s.dt := rfl
@[simp] theorem State.writeByte_st (s : State) (a : Nat) (b : Byte) : (s.writeByte a b).st = s.st := rfl
@[simp] theorem State.writeByte_keys (s : State) (a : Nat) (b : Byte) : (s.writeByte a b).keys = s.keys := rfl
@[simp] theorem State.writeByte_fb (s : State) (a : Nat) (b : Byte) : (s.writeByte a b).fb = s.fb := rfl
@[simp] theorem State.writeByte_draws (s : State) (a : Nat) (b : Byte) : (s.writeByte a b).draws = s.draws := rfl

/-! ### `State.nextDraw` -/

@[simp] theorem State.nextDraw_mem (s : State) : s.nextDraw.mem = s.mem := rfl
@[simp] theorem State.nextDraw_v (s : State) : s.nextDraw.v = s.v := rfl
@[simp] theorem State.nextDraw_i (s : State) : s.nextDraw.i = s.i := rfl
@[simp] theorem State.nextDraw_pc (s : State) : s.nextDraw.pc = s.pc := rfl
@[simp] theorem State.nextDraw_sp (s : State) : s.nextDraw.sp = s.sp := rfl
@[simp] theorem State.nextDraw_stack (s : State) : s.nextDraw.stack = s.stack := rfl
@[simp] theorem State.nextDraw_dt (s : State) : s.nextDraw.dt = s.dt := rfl
@[simp] theorem State.nextDraw_st (s : State) : s.nextDraw.st = s.st := rfl
@[simp] theorem State.nextDraw_keys (s : State) : s.nextDraw.keys = s.keys := rfl
@[simp] theorem State.nextDraw_fb (s : State) : s.nextDraw.fb = s.fb := rfl
@[simp] theorem State.nextDraw_draws (s : State) : s.nextDraw.draws = s.draws + 1 := rfl

/-! ### Accessors under the updates of other fields -/

@[simp] theorem State.reg_setIndex (s : State) (a : Word) (q : Nibble) : (s.setIndex a).reg q = s.reg q := rfl
@[simp] theorem State.reg_setPc (s : State) (a : Word) (q : Nibble) : (s.setPc a).reg q = s.reg q := rfl
@[simp] theorem State.reg_setSp (s : State) (p : Nibble) (q : Nibble) : (s.setSp p).reg q = s.reg q := rfl
@[simp] theorem State.reg_setStackAt (s : State) (j : Nibble) (a : Word) (q : Nibble) : (s.setStackAt j a).reg q = s.reg q := rfl
@[simp] theorem State.reg_setDt (s : State) (b : Byte) (q : Nibble) : (s.setDt b).reg q = s.reg q := rfl
@[simp] theorem State.reg_setSt (s : State) (b : Byte) (q : Nibble) : (s.setSt b).reg q = s.reg q := rfl
@[simp] theorem State.reg_setKey (s : State) (k : Nibble) (p : Bool) (q : Nibble) : (s.setKey k p).reg q = s.reg q := rfl
@[simp] theorem State.reg_setFb (s : State) (fb : Framebuffer) (q : Nibble) : (s.setFb fb).reg q = s.reg q := rfl
@[simp] theorem State.reg_writeByte (s : State) (a : Nat) (b : Byte) (q : Nibble) : (s.writeByte a b).reg q = s.reg q := rfl
@[simp] theorem State.reg_nextDraw (s : State) (q : Nibble) : s.nextDraw.reg q = s.reg q := rfl

@[simp] theorem State.stackAt_setReg (s : State) (x : Nibble) (b : Byte) (q : Nibble) : (s.setReg x b).stackAt q = s.stackAt q := rfl
@[simp] theorem State.stackAt_setIndex (s : State) (a : Word) (q : Nibble) : (s.setIndex a).stackAt q = s.stackAt q := rfl
@[simp] theorem State.stackAt_setPc (s : State) (a : Word) (q : Nibble) : (s.setPc a).stackAt q = s.stackAt q := rfl
@[simp] theorem State.stackAt_setSp (s : State) (p : Nibble) (q : Nibble) : (s.setSp p).stackAt q = s.stackAt q := rfl
@[simp] theorem State.stackAt_setDt (s : State) (b : Byte) (q : Nibble) : (s.setDt b).stackAt q = s.stackAt q := rfl
@[simp] theorem State.stackAt_setSt (s : State) (b : Byte) (q : Nibble) : (s.setSt b).stackAt q = s.stackAt q := rfl
@[simp] theorem State.stackAt_setKey (s : State) (k : Nibble) (p : Bool) (q : Nibble) : (s.setKey k p).stackAt q = s.stackAt q := rfl
@[simp] theorem State.stackAt_setFb (s : State) (fb : Framebuffer) (q : Nibble) : (s.setFb fb).stackAt q = s.stackAt q := rfl
@[simp] theorem State.stackAt_writeByte (s : State) (a : Nat) (b : Byte) (q : Nibble) : (s.writeByte a b).stackAt q = s.stackAt q := rfl
@[simp] theorem State.stackAt_nextDraw (s : State) (q : Nibble) : s.nextDraw.stackAt q = s.stackAt q := rfl

@[simp] theorem State.key_setReg (s : State) (x : Nibble) (b : Byte) (q : Nibble) : (s.setReg x b).key q = s.key q := rfl
@[simp] theorem State.key_setIndex (s : State) (a : Word) (q : Nibble) : (s.setIndex a).key q = s.key q := rfl
@[simp] theorem State.key_setPc (s : State) (a : Word) (q : Nibble) : (s.setPc a).key q = s.key q := rfl
@[simp] theorem State.key_setSp (s : State) (p : Nibble) (q : Nibble) : (s.setSp p).key q = s.key q := rfl
@[simp] theorem State.key_setStackAt (s : State) (j : Nibble) (a : Word) (q : Nibble) : (s.setStackAt j a).key q = s.key q := rfl
@[simp] theorem State.key_setDt (s : State) (b : Byte) (q : Nibble) : (s.setDt b).key q = s.key q := rfl
@[simp] theorem State.key_setSt (s : State) (b : Byte) (q : Nibble) : (s.setSt b).key q = s.key q := rfl
@[simp] theorem State.key_setFb (s : State) (fb : Framebuffer) (q : Nibble) : (s.setFb fb).key q = s.key q := rfl
@[simp] theorem State.key_writeByte (s : State) (a : Nat) (b : Byte) (q : Nibble) : (s.writeByte a b).key q = s.key q := rfl
@[simp] theorem State.key_nextDraw (s : State) (q : Nibble) : s.nextDraw.key q = s.key q := rfl

@[simp] theorem State.pixel_setReg (s : State) (x : Nibble) (b : Byte) (u w : Nat) : (s.setReg x b).pixel u w = s.pixel u w := rfl
@[simp] theorem State.pixel_setIndex (s : State) (a : Word) (u w : Nat) : (s.setIndex a).pixel u w = s.pixel u w := rfl
@[simp] theorem State.pixel_setPc (s : State) (a : Word) (u w : Nat) : (s.setPc a).pixel u w = s.pixel u w := rfl
@[simp] theorem State.pixel_setSp (s : State) (p : Nibble) (u w : Nat) : (s.setSp p).pixel u w = s.pixel u w := rfl
@[simp] theorem State.pixel_setStackAt (s : State) (j : Nibble) (a : Word) (u w : Nat) : (s.setStackAt j a).pixel u w = s.pixel u w := rfl
@[simp] theorem State.pixel_setDt (s : State) (b : Byte) (u w : Nat) : (s.setDt b).pixel u w = s.pixel u w := rfl
@[simp] theorem State.pixel_setSt (s : State) (b : Byte) (u w : Nat) : (s.setSt b).pixel u w = s.pixel u w := rfl
@[simp] theorem State.pixel_setKey (s : State) (k : Nibble) (p : Bool) (u w : Nat) : (s.setKey k p).pixel u w = s.pixel u w := rfl
@[simp] theorem State.pixel_writeByte (s : State) (a : Nat) (b : Byte) (u w : Nat) : (s.writeByte a b).pixel u w = s.pixel u w := rfl
@[simp] theorem State.pixel_nextDraw (s : State) (u w : Nat) : s.nextDraw.pixel u w = s.pixel u w := rfl

@[simp] theorem State.readByte_setReg (s : State) (x : Nibble) (b : Byte) (q : Nat) : (s.setReg x b).readByte q = s.readByte q := rfl
@[simp] theorem State.readByte_setIndex (s : State) (a : Word) (q : Nat) : (s.setIndex a).readByte q = s.readByte q := rfl
@[simp] theorem State.readByte_setPc (s : State) (a : Word) (q : Nat) : (s.setPc a).readByte q = s.readByte q := rfl
@[simp] theorem State.readByte_setSp (s : State) (p : Nibble) (q : Nat) : (s.setSp p).readByte q = s.readByte q := rfl
@[simp] theorem State.readByte_setStackAt (s : State) (j : Nibble) (a : Word) (q : Nat) : (s.setStackAt j a).readByte q = s.readByte q := rfl
@[simp] theorem State.readByte_setDt (s : State) (b : Byte) (q : Nat) : (s.setDt b).readByte q = s.readByte q := rfl
@[simp] theorem State.readByte_setSt (s : State) (b : Byte) (q : Nat) : (s.setSt b).readByte q = s.readByte q := rfl
@[simp] theorem State.readByte_setKey (s : State) (k : Nibble) (p : Bool) (q : Nat) : (s.setKey k p).readByte q = s.readByte q := rfl
@[simp] theorem State.readByte_setFb (s : State) (fb : Framebuffer) (q : Nat) : (s.setFb fb).readByte q = s.readByte q := rfl
@[simp] theorem State.readByte_nextDraw (s : State) (q : Nat) : s.nextDraw.readByte q = s.readByte q := rfl

@[simp] theorem State.indexed_setReg (s : State) (x : Nibble) (b : Byte) (q : Nat) : (s.setReg x b).indexed q = s.indexed q := rfl
@[simp] theorem State.indexed_setPc (s : State) (a : Word) (q : Nat) : (s.setPc a).indexed q = s.indexed q := rfl
@[simp] theorem State.indexed_setSp (s : State) (p : Nibble) (q : Nat) : (s.setSp p).indexed q = s.indexed q := rfl
@[simp] theorem State.indexed_setStackAt (s : State) (j : Nibble) (a : Word) (q : Nat) : (s.setStackAt j a).indexed q = s.indexed q := rfl
@[simp] theorem State.indexed_setDt (s : State) (b : Byte) (q : Nat) : (s.setDt b).indexed q = s.indexed q := rfl
@[simp] theorem State.indexed_setSt (s : State) (b : Byte) (q : Nat) : (s.setSt b).indexed q = s.indexed q := rfl
@[simp] theorem State.indexed_setKey (s : State) (k : Nibble) (p : Bool) (q : Nat) : (s.setKey k p).indexed q = s.indexed q := rfl
@[simp] theorem State.indexed_setFb (s : State) (fb : Framebuffer) (q : Nat) : (s.setFb fb).indexed q = s.indexed q := rfl
@[simp] theorem State.indexed_writeByte (s : State) (a : Nat) (b : Byte) (q : Nat) : (s.writeByte a b).indexed q = s.indexed q := rfl
@[simp] theorem State.indexed_nextDraw (s : State) (q : Nat) : s.nextDraw.indexed q = s.indexed q := rfl

@[simp] theorem State.rand_setReg (s : State) (x : Nibble) (b : Byte) : (s.setReg x b).rand = s.rand := rfl
@[simp] theorem State.rand_setIndex (s : State) (a : Word) : (s.setIndex a).rand = s.rand := rfl
@[simp] theorem State.rand_setPc (s : State) (a : Word) : (s.setPc a).rand = s.rand := rfl
@[simp] theorem State.rand_setSp (s : State) (p : Nibble) : (s.setSp p).rand = s.rand := rfl
@[simp] theorem State.rand_setStackAt (s : State) (j : Nibble) (a : Word) : (s.setStackAt j a).rand = s.rand := rfl
@[simp] theorem State.rand_setDt (s : State) (b : Byte) : (s.setDt b).rand = s.rand := rfl
@[simp] theorem State.rand_setSt (s : State) (b : Byte) : (s.setSt b).rand = s.rand := rfl
@[simp] theorem State.rand_setKey (s : State) (k : Nibble) (p : Bool) : (s.setKey k p).rand = s.rand := rfl
@[simp] theorem State.rand_setFb (s : State) (fb : Framebuffer) : (s.setFb fb).rand = s.rand := rfl
@[simp] theorem State.rand_writeByte (s : State) (a : Nat) (b : Byte) : (s.writeByte a b).rand = s.rand := rfl

/-! ### Accessors under the update of their own field -/

@[simp] theorem State.reg_setReg_same (s : State) (x : Nibble) (b : Byte) : (s.setReg x b).reg x = b := by
  simp [State.reg, State.setReg]

theorem State.reg_setReg_ne (s : State) (x y : Nibble) (b : Byte) (h : y ≠ x) :
    (s.setReg x b).reg y = s.reg y := by
  have hv : x.val ≠ y.val := fun e => h (Fin.ext e.symm)
  simp [State.reg, State.setReg, Vector.getElem_set_ne _ _ hv]

theorem State.reg_setReg (s : State) (x y : Nibble) (b : Byte) :
    (s.setReg x b).reg y = if y = x then b else s.reg y := by
  split
  · next h => subst h; exact State.reg_setReg_same s y b
  · next h => exact State.reg_setReg_ne s x y b h

@[simp] theorem State.stackAt_setStackAt_same (s : State) (j : Nibble) (a : Word) :
    (s.setStackAt j a).stackAt j = a := by
  simp [State.stackAt, State.setStackAt]

theorem State.stackAt_setStackAt_ne (s : State) (j k : Nibble) (a : Word) (h : k ≠ j) :
    (s.setStackAt j a).stackAt k = s.stackAt k := by
  have hv : j.val ≠ k.val := fun e => h (Fin.ext e.symm)
  simp [State.stackAt, State.setStackAt, Vector.getElem_set_ne _ _ hv]

@[simp] theorem State.key_setKey_same (s : State) (k : Nibble) (p : Bool) : (s.setKey k p).key k = p := by
  simp [State.key, State.setKey]

theorem State.key_setKey_ne (s : State) (k j : Nibble) (p : Bool) (h : j ≠ k) :
    (s.setKey k p).key j = s.key j := by
  have hv : k.val ≠ j.val := fun e => h (Fin.ext e.symm)
  simp [State.key, State.setKey, Vector.getElem_set_ne _ _ hv]

@[simp] theorem State.pixel_setFb (s : State) (fb : Framebuffer) (u w : Nat) :
    (s.setFb fb).pixel u w = fb.get u w := rfl

@[simp] theorem State.rand_nextDraw (s : State) : s.nextDraw.rand = Config.rand (s.draws + 1) := rfl

@[simp] theorem State.indexed_setIndex (s : State) (a : Word) (q : Nat) :
    (s.setIndex a).indexed q = a.toNat + q := rfl

/-- pc never holds a value of 4096 or more after a write (10_state.md R33). -/
theorem State.setPc_pc_lt (s : State) (a : Word) : (s.setPc a).pc.toNat < 4096 := by
  simp only [State.setPc_pc, BitVec.toNat_umod, BitVec.toNat_ofNat]
  exact Nat.mod_lt _ (by decide)

end Sys2Proof.Machine
end

