-- ==== Sys2Proof/Laws/Framebuffer.lean ====
section
/-! SUPPORT. The framebuffer cell by cell, and what drawing one sprite row does (43_display.md R191 to R194). -/

namespace Sys2Proof.Machine

@[simp] theorem Framebuffer.get_blank (x y : Nat) : Framebuffer.blank.get x y = false := by
  unfold Framebuffer.get Framebuffer.blank
  split <;> simp

theorem Framebuffer.get_off (fb : Framebuffer) (x y : Nat) (h : ¬(x < 64 ∧ y < 32)) : fb.get x y = false := by
  simp [Framebuffer.get, h]

/-- Toggling a cell flips that cell, if it is on the grid, and no other. -/
theorem Framebuffer.get_toggle (fb : Framebuffer) (x y p q : Nat) :
    (fb.toggle x y).get p q = (fb.get p q ^^ decide (x < 64 ∧ y < 32 ∧ p = x ∧ q = y)) := by
  by_cases h : x < 64 ∧ y < 32
  · by_cases hpq : p < 64 ∧ q < 32
    · simp only [Framebuffer.get, Framebuffer.toggle, h, hpq, dif_pos, and_self, Vector.getElem_set]
      by_cases hy : y = q
      · subst hy
        by_cases hx : x = p
        · subst hx; simp
        · simp [hx, Ne.symm hx]
      · simp [hy, Ne.symm hy]
    · have hne : ¬(p = x ∧ q = y) := by rintro ⟨rfl, rfl⟩; exact hpq h
      have hne' : ¬(x < 64 ∧ y < 32 ∧ p = x ∧ q = y) := fun e => hne e.2.2
      rw [Framebuffer.get_off _ _ _ hpq, Framebuffer.get_off _ _ _ hpq]
      simp [hne']
  · have hne : ¬(x < 64 ∧ y < 32 ∧ p = x ∧ q = y) := fun e => h ⟨e.1, e.2.1⟩
    simp [Framebuffer.toggle, h, hne]

/-- A set sprite bit flips its cell if that is on the screen, and changes nothing else. -/
theorem Canvas.get_plot (c : Canvas) (x y p q : Nat) :
    (c.plot x y).fb.get p q = (c.fb.get p q ^^ decide (x < 64 ∧ y < 32 ∧ p = x ∧ q = y)) := by
  unfold Canvas.plot
  split
  · exact Framebuffer.get_toggle c.fb x y p q
  · next h =>
    have hne : ¬(x < 64 ∧ y < 32 ∧ p = x ∧ q = y) := fun e => h ⟨e.1, e.2.1⟩
    simp [hne]

/-- A set sprite bit is a collision exactly if its cell is on the screen and lit. -/
theorem Canvas.collision_plot (c : Canvas) (x y : Nat) :
    (c.plot x y).collision = (c.collision || c.fb.get x y) := by
  unfold Canvas.plot
  split
  · rfl
  · next h => simp [Framebuffer.get_off _ _ _ h]

/-- The first m columns of a sprite row. -/
def Canvas.drawCols (c : Canvas) (x0 y : Nat) (row : Byte) (m : Nat) : Canvas :=
  (List.range m).foldl (fun c k => if rowPixel row k then c.plot (x0 + k) y else c) c

theorem Canvas.drawRow_eq_drawCols (c : Canvas) (x0 y : Nat) (row : Byte) :
    c.drawRow x0 y row = c.drawCols x0 y row 8 := rfl

theorem Canvas.drawCols_succ (c : Canvas) (x0 y : Nat) (row : Byte) (m : Nat) :
    c.drawCols x0 y row (m + 1) =
      if rowPixel row m then (c.drawCols x0 y row m).plot (x0 + m) y else c.drawCols x0 y row m := by
  simp [Canvas.drawCols, List.range_succ]

theorem Canvas.get_drawCols (c : Canvas) (x0 y : Nat) (row : Byte) (m p q : Nat) :
    (c.drawCols x0 y row m).fb.get p q =
      (c.fb.get p q ^^ (decide (p < 64 ∧ y < 32 ∧ q = y ∧ x0 ≤ p ∧ p < x0 + m) && rowPixel row (p - x0))) := by
  induction m with
  | zero =>
    have : ¬(p < 64 ∧ y < 32 ∧ q = y ∧ x0 ≤ p ∧ p < x0 + 0) := by omega
    rw [decide_eq_false this]
    simp [Canvas.drawCols]
  | succ m ih =>
    rw [Canvas.drawCols_succ]
    by_cases hp : p = x0 + m
    · have hsub : p - x0 = m := by omega
      have h1 : ¬(p < 64 ∧ y < 32 ∧ q = y ∧ x0 ≤ p ∧ p < x0 + m) := by omega
      have h2 : (p < 64 ∧ y < 32 ∧ q = y ∧ x0 ≤ p ∧ p < x0 + (m + 1)) ↔ (x0 + m < 64 ∧ y < 32 ∧ p = x0 + m ∧ q = y) := by
        omega
      rw [decide_eq_false h1, Bool.false_and, Bool.xor_false] at ih
      cases hrow : rowPixel row m
      · simp [ih, hsub, hrow]
      · simp only [if_true, Canvas.get_plot, ih, hsub, hrow, Bool.and_true, h2]
    · have h1 : (p < 64 ∧ y < 32 ∧ q = y ∧ x0 ≤ p ∧ p < x0 + (m + 1)) ↔ (p < 64 ∧ y < 32 ∧ q = y ∧ x0 ≤ p ∧ p < x0 + m) := by
        omega
      have h2 : ¬(x0 + m < 64 ∧ y < 32 ∧ p = x0 + m ∧ q = y) := by omega
      simp only [h1]
      cases hrow : rowPixel row m
      · simpa using ih
      · simp only [if_true, Canvas.get_plot, ih, h2, decide_false, Bool.xor_false]

theorem Canvas.collision_drawCols (c : Canvas) (x0 y : Nat) (row : Byte) (m : Nat) :
    (c.drawCols x0 y row m).collision = true ↔
      c.collision = true ∨ ∃ k, k < m ∧ rowPixel row k = true ∧ c.fb.get (x0 + k) y = true := by
  induction m with
  | zero => simp [Canvas.drawCols]
  | succ m ih =>
    rw [Canvas.drawCols_succ]
    have hget : (c.drawCols x0 y row m).fb.get (x0 + m) y = c.fb.get (x0 + m) y := by
      rw [Canvas.get_drawCols]
      rw [decide_eq_false (by omega), Bool.false_and, Bool.xor_false]
    constructor
    · intro h
      by_cases hrow : rowPixel row m = true
      · rw [if_pos hrow, Canvas.collision_plot, Bool.or_eq_true, hget] at h
        rcases h with h | h
        · rcases ih.mp h with h | ⟨k, hk, hr, hl⟩
          · exact .inl h
          · exact .inr ⟨k, by omega, hr, hl⟩
        · exact .inr ⟨m, by omega, hrow, h⟩
      · rw [if_neg hrow] at h
        rcases ih.mp h with h | ⟨k, hk, hr, hl⟩
        · exact .inl h
        · exact .inr ⟨k, by omega, hr, hl⟩
    · intro h
      by_cases hrow : rowPixel row m = true
      · rw [if_pos hrow, Canvas.collision_plot, Bool.or_eq_true, hget]
        rcases h with h | ⟨k, hk, hr, hl⟩
        · exact .inl (ih.mpr (.inl h))
        · by_cases hkm : k = m
          · subst hkm; exact .inr hl
          · exact .inl (ih.mpr (.inr ⟨k, by omega, hr, hl⟩))
      · rw [if_neg hrow]
        rcases h with h | ⟨k, hk, hr, hl⟩
        · exact ih.mpr (.inl h)
        · have hkm : k ≠ m := by rintro rfl; exact hrow hr
          exact ih.mpr (.inr ⟨k, by omega, hr, hl⟩)

/-- What one sprite row does to each cell (43_display.md R191 to R193). -/
theorem Canvas.get_drawRow (c : Canvas) (x0 y : Nat) (row : Byte) (p q : Nat) :
    (c.drawRow x0 y row).fb.get p q =
      (c.fb.get p q ^^ (decide (p < 64 ∧ y < 32 ∧ q = y ∧ x0 ≤ p ∧ p < x0 + 8) && rowPixel row (p - x0))) :=
  Canvas.get_drawCols c x0 y row 8 p q

/-- When one sprite row is a collision (43_display.md R194). -/
theorem Canvas.collision_drawRow (c : Canvas) (x0 y : Nat) (row : Byte) :
    (c.drawRow x0 y row).collision = true ↔
      c.collision = true ∨ ∃ k, k < 8 ∧ rowPixel row k = true ∧ c.fb.get (x0 + k) y = true :=
  Canvas.collision_drawCols c x0 y row 8

/-- Drawing reads memory and the framebuffer only: one more row. -/
theorem State.drawRows_succ (s : State) (x0 y0 n : Nat) :
    s.drawRows x0 y0 (n + 1) = (s.drawRows x0 y0 n).drawRow x0 (y0 + n) (s.readByte (s.indexed n)) := by
  simp [State.drawRows, List.range_succ]

@[simp] theorem State.drawRows_zero (s : State) (x0 y0 : Nat) : s.drawRows x0 y0 0 = ⟨s.fb, false⟩ := rfl

end Sys2Proof.Machine
end

