-- ==== Sys2Proof/Laws/Memory.lean ====
section
/-! SUPPORT. The laws of the memory image: a read after a write, and the canonical form every write keeps. -/

namespace Sys2Proof.Machine

/-- A cell put in front is read at its address, whatever the list behind it says below that address. -/
theorem Memory.read_cons_same (a : Nat) (b : Byte) (m : Memory) (h : m.read a = initialByte a) :
    (Memory.cons a b m).read a = b := by
  unfold Memory.cons
  split
  · next hb => rw [h, hb]
  · simp [Memory.read]

theorem Memory.read_cons_ne (a c : Nat) (b : Byte) (m : Memory) (h : c ≠ a) :
    (Memory.cons a b m).read c = m.read c := by
  unfold Memory.cons
  split
  · rfl
  · simp [Memory.read, Ne.symm h]

/-- Below the least address of a canonical list, everything reads as unlisted. -/
theorem Memory.read_of_wfFrom_lt (m : Memory) (lo a : Nat) (hw : m.wfFrom lo = true) (ha : a < lo) :
    m.read a = initialByte a := by
  induction m generalizing lo with
  | nil => rfl
  | cons cell m ih =>
    obtain ⟨k, b⟩ := cell
    simp only [Memory.wfFrom, Bool.and_eq_true, decide_eq_true_eq] at hw
    have hk : k ≠ a := by omega
    simp only [Memory.read, hk, if_false]
    exact ih (k + 1) hw.2 (by omega)

theorem Memory.wfFrom_mono (m : Memory) (lo hi : Nat) (h : lo ≤ hi) (hw : m.wfFrom hi = true) :
    m.wfFrom lo = true := by
  cases m with
  | nil => rfl
  | cons cell m =>
    obtain ⟨k, b⟩ := cell
    simp only [Memory.wfFrom, Bool.and_eq_true, decide_eq_true_eq] at hw ⊢
    exact ⟨⟨⟨by omega, hw.1.1.2⟩, hw.1.2⟩, hw.2⟩

theorem Memory.wfFrom_cons (a lo : Nat) (b : Byte) (m : Memory) (hlo : lo ≤ a) (ha : a < memSize)
    (hw : m.wfFrom (a + 1) = true) : (Memory.cons a b m).wfFrom lo = true := by
  unfold Memory.cons
  split
  · exact Memory.wfFrom_mono m lo (a + 1) (by omega) hw
  · next hb =>
    simp only [Memory.wfFrom, Bool.and_eq_true, decide_eq_true_eq]
    exact ⟨⟨⟨hlo, ha⟩, hb⟩, hw⟩

theorem Memory.wfFrom_write (m : Memory) (lo a : Nat) (b : Byte) (hlo : lo ≤ a) (ha : a < memSize)
    (hw : m.wfFrom lo = true) : (m.write a b).wfFrom lo = true := by
  induction m generalizing lo with
  | nil => exact Memory.wfFrom_cons a lo b [] hlo ha rfl
  | cons cell m ih =>
    obtain ⟨k, c⟩ := cell
    have hw' := hw
    simp only [Memory.wfFrom, Bool.and_eq_true, decide_eq_true_eq] at hw'
    unfold Memory.write
    split
    · next hlt =>
      refine Memory.wfFrom_cons a lo b _ hlo ha ?_
      simp only [Memory.wfFrom, Bool.and_eq_true, decide_eq_true_eq]
      exact ⟨⟨⟨by omega, hw'.1.1.2⟩, hw'.1.2⟩, hw'.2⟩
    · split
      · next heq =>
        subst heq
        exact Memory.wfFrom_cons a lo b m hlo ha hw'.2
      · simp only [Memory.wfFrom, Bool.and_eq_true, decide_eq_true_eq]
        exact ⟨hw'.1, ih (k + 1) (by omega) hw'.2⟩

/-- Every write keeps the canonical form. -/
theorem Memory.wf_write (m : Memory) (a : Nat) (b : Byte) (ha : a < memSize) (hw : m.wf = true) :
    (m.write a b).wf = true :=
  Memory.wfFrom_write m 0 a b (Nat.zero_le a) ha hw

theorem Memory.wf_nil : Memory.wf [] = true := rfl

/-- A write leaves every other address alone. -/
theorem Memory.read_write_ne (m : Memory) (a c : Nat) (b : Byte) (h : c ≠ a) :
    (m.write a b).read c = m.read c := by
  induction m with
  | nil => exact Memory.read_cons_ne a c b [] h
  | cons cell m ih =>
    obtain ⟨k, d⟩ := cell
    unfold Memory.write
    split
    · exact Memory.read_cons_ne a c b _ h
    · split
      · next heq =>
        subst heq
        rw [Memory.read_cons_ne a c b m h]
        simp [Memory.read, Ne.symm h]
      · simp only [Memory.read, ih]

/-- A read after a write to the same address gives the byte written, in a canonical memory. -/
theorem Memory.read_write_same_from (m : Memory) (lo a : Nat) (b : Byte) (hw : m.wfFrom lo = true) :
    (m.write a b).read a = b := by
  induction m generalizing lo with
  | nil => exact Memory.read_cons_same a b [] rfl
  | cons cell m ih =>
    obtain ⟨k, c⟩ := cell
    simp only [Memory.wfFrom, Bool.and_eq_true, decide_eq_true_eq] at hw
    unfold Memory.write
    split
    · next hlt =>
      refine Memory.read_cons_same a b _ ?_
      have hk : k ≠ a := by omega
      simp only [Memory.read, hk, if_false]
      exact Memory.read_of_wfFrom_lt m (k + 1) a hw.2 (by omega)
    · split
      · next heq =>
        subst heq
        exact Memory.read_cons_same a b m (Memory.read_of_wfFrom_lt m (a + 1) a hw.2 (by omega))
      · next hne =>
        have hk : k ≠ a := fun e => hne e.symm
        simp only [Memory.read, hk, if_false]
        exact ih (k + 1) hw.2

theorem Memory.read_write_same (m : Memory) (a : Nat) (b : Byte) (hw : m.wf = true) :
    (m.write a b).read a = b :=
  Memory.read_write_same_from m 0 a b hw

end Sys2Proof.Machine
end

