-- ==== Sys2Proof/Laws/Ops.lean ====
section
/-! SUPPORT. One lemma for each shared operation over the state: what it can do, and what it leaves alone. -/

namespace Sys2Proof.Machine

/-! ### One byte -/

theorem State.readByte_mod (s : State) (a : Nat) : s.readByte (a % memSize) = s.readByte a := by
  simp [State.readByte]

theorem State.readByte_writeByte_same (s : State) (a c : Nat) (b : Byte) (hw : s.mem.wf = true)
    (h : c % memSize = a % memSize) : (s.writeByte a b).readByte c = b := by
  simp only [State.readByte, State.writeByte_mem, h]
  exact Memory.read_write_same _ _ _ hw

theorem State.readByte_writeByte_ne (s : State) (a c : Nat) (b : Byte) (h : c % memSize ≠ a % memSize) :
    (s.writeByte a b).readByte c = s.readByte c := by
  simp only [State.readByte, State.writeByte_mem]
  exact Memory.read_write_ne _ _ _ _ h

theorem State.wf_writeByte (s : State) (a : Nat) (b : Byte) (hw : s.mem.wf = true) :
    (s.writeByte a b).mem.wf = true := by
  simp only [State.writeByte_mem]
  exact Memory.wf_write _ _ _ (Nat.mod_lt _ (by decide)) hw

/-! ### A list of bytes -/

/-- Storing bytes touches memory only. -/
theorem State.writeBytes_eq (bs : List Byte) (s : State) (a : Nat) :
    s.writeBytes a bs = { s with mem := (s.writeBytes a bs).mem } := by
  induction bs generalizing s a with
  | nil => rfl
  | cons b bs ih =>
    simp only [State.writeBytes]
    rw [ih]
    rfl

theorem State.wf_writeBytes (bs : List Byte) (s : State) (a : Nat) (hw : s.mem.wf = true) :
    (s.writeBytes a bs).mem.wf = true := by
  induction bs generalizing s a with
  | nil => exact hw
  | cons b bs ih => exact ih _ _ (State.wf_writeByte s a b hw)

/-- Every byte outside the stored addresses reads as before. -/
theorem State.readByte_writeBytes_outside (bs : List Byte) (s : State) (a c : Nat)
    (h : ∀ k, k < bs.length → c % memSize ≠ (a + k) % memSize) :
    (s.writeBytes a bs).readByte c = s.readByte c := by
  induction bs generalizing s a with
  | nil => rfl
  | cons b bs ih =>
    simp only [State.writeBytes]
    rw [ih, State.readByte_writeByte_ne s a c b (h 0 (by simp))]
    intro k hk
    have := h (k + 1) (by simpa using hk)
    rwa [Nat.add_assoc, Nat.add_comm 1 k]

/-- Each stored byte is read back, for a list that does not wrap onto itself. -/
theorem State.readByte_writeBytes_inside (bs : List Byte) (s : State) (a k : Nat) (hw : s.mem.wf = true)
    (hlen : bs.length ≤ memSize) (hk : k < bs.length) :
    (s.writeBytes a bs).readByte (a + k) = bs[k] := by
  induction bs generalizing s a k with
  | nil => simp at hk
  | cons b bs ih =>
    simp only [List.length_cons] at hlen hk
    simp only [State.writeBytes]
    cases k with
    | zero =>
      rw [State.readByte_writeBytes_outside]
      · exact State.readByte_writeByte_same s a _ b hw rfl
      · intro j hj
        simp only [memSize] at *
        omega
    | succ k =>
      have := ih (s.writeByte a b) (a + 1) k (State.wf_writeByte s a b hw) (by omega) (by omega)
      rw [show a + (k + 1) = a + 1 + k by omega, this]
      rfl

/-- A store treats two memories alike: a byte is afterwards the same in both, or in each as it was. -/
theorem State.readByte_writeByte_two (s u : State) (a c : Nat) (b : Byte) (hs : s.mem.wf = true)
    (hu : u.mem.wf = true) :
    (s.writeByte a b).readByte c = (u.writeByte a b).readByte c ∨
      ((s.writeByte a b).readByte c = s.readByte c ∧ (u.writeByte a b).readByte c = u.readByte c) := by
  by_cases h : c % memSize = a % memSize
  · left
    rw [State.readByte_writeByte_same s a c b hs h, State.readByte_writeByte_same u a c b hu h]
  · exact .inr ⟨State.readByte_writeByte_ne s a c b h, State.readByte_writeByte_ne u a c b h⟩

/-- A list of stores treats two memories alike, byte by byte. -/
theorem State.readByte_writeBytes_two (bs : List Byte) (s u : State) (a c : Nat) (hs : s.mem.wf = true)
    (hu : u.mem.wf = true) :
    (s.writeBytes a bs).readByte c = (u.writeBytes a bs).readByte c ∨
      ((s.writeBytes a bs).readByte c = s.readByte c ∧ (u.writeBytes a bs).readByte c = u.readByte c) := by
  induction bs generalizing s u a with
  | nil => exact .inr ⟨rfl, rfl⟩
  | cons b bs ih =>
    simp only [State.writeBytes]
    rcases ih (s.writeByte a b) (u.writeByte a b) (a + 1) (State.wf_writeByte s a b hs)
      (State.wf_writeByte u a b hu) with h | ⟨h1, h2⟩
    · exact .inl h
    · rw [h1, h2]
      exact State.readByte_writeByte_two s u a c b hs hu

/-! ### The registers as a block -/

/-- The block of LD [I], Vx and LD Vx, [I] is V0 to VX, VX included (45_index_memory.md R234, R235). -/
theorem mem_regsUpTo (x k : Nibble) : k ∈ regsUpTo x ↔ k ≤ x := by
  simp [regsUpTo]

theorem nodup_regsUpTo (x : Nibble) : (regsUpTo x).Nodup :=
  (List.nodup_finRange 16).sublist List.filter_sublist

/-- Storing registers touches memory only. -/
theorem State.storeRegs_eq (ks : List Nibble) (s : State) :
    s.storeRegs ks = { s with mem := (s.storeRegs ks).mem } := by
  induction ks generalizing s with
  | nil => rfl
  | cons k ks ih =>
    simp only [State.storeRegs]
    rw [ih]
    rfl

theorem State.wf_storeRegs (ks : List Nibble) (s : State) (hw : s.mem.wf = true) :
    (s.storeRegs ks).mem.wf = true := by
  induction ks generalizing s with
  | nil => exact hw
  | cons k ks ih => exact ih _ (State.wf_writeByte s _ _ hw)

theorem State.readByte_storeRegs_outside (ks : List Nibble) (s : State) (c : Nat)
    (h : ∀ k ∈ ks, c % memSize ≠ s.indexed k.val % memSize) :
    (s.storeRegs ks).readByte c = s.readByte c := by
  induction ks generalizing s with
  | nil => rfl
  | cons k ks ih =>
    simp only [State.storeRegs]
    rw [ih, State.readByte_writeByte_ne _ _ _ _ (h k (by simp))]
    intro j hj
    exact h j (by simp [hj])

theorem State.readByte_storeRegs_inside (ks : List Nibble) (s : State) (k : Nibble) (hw : s.mem.wf = true)
    (hn : ks.Nodup) (hk : k ∈ ks) : (s.storeRegs ks).readByte (s.indexed k.val) = s.reg k := by
  induction ks generalizing s with
  | nil => simp at hk
  | cons j ks ih =>
    simp only [State.storeRegs]
    obtain ⟨hj, hn⟩ := List.nodup_cons.mp hn
    rcases List.mem_cons.mp hk with rfl | hk
    · rw [State.readByte_storeRegs_outside]
      · exact State.readByte_writeByte_same s _ _ _ hw rfl
      · intro i hi e
        have hne : i ≠ k := fun h => hj (h ▸ hi)
        apply hne
        apply Fin.ext
        have h1 := i.isLt
        have h2 := k.isLt
        simp only [State.indexed, memSize, State.writeByte_i] at e
        omega
    · exact ih (s.writeByte (s.indexed j.val) (s.reg j)) (State.wf_writeByte s _ _ hw) hn hk

/-- Two states with the same registers and I store a block alike, byte by byte. -/
theorem State.readByte_storeRegs_two (ks : List Nibble) (s u : State) (c : Nat) (hv : u.v = s.v) (hi : u.i = s.i)
    (hs : s.mem.wf = true) (hu : u.mem.wf = true) :
    (s.storeRegs ks).readByte c = (u.storeRegs ks).readByte c ∨
      ((s.storeRegs ks).readByte c = s.readByte c ∧ (u.storeRegs ks).readByte c = u.readByte c) := by
  induction ks generalizing s u with
  | nil => exact .inr ⟨rfl, rfl⟩
  | cons k ks ih =>
    simp only [State.storeRegs]
    rw [show u.indexed k.val = s.indexed k.val by simp only [State.indexed, hi],
      show u.reg k = s.reg k by simp only [State.reg, hv]]
    rcases ih (s.writeByte (s.indexed k.val) (s.reg k)) (u.writeByte (s.indexed k.val) (s.reg k)) hv hi
      (State.wf_writeByte s _ _ hs) (State.wf_writeByte u _ _ hu) with h | ⟨h1, h2⟩
    · exact .inl h
    · rw [h1, h2]
      exact State.readByte_writeByte_two s u _ c _ hs hu

/-- Loading registers touches the V registers only. -/
theorem State.loadRegs_eq (ks : List Nibble) (s : State) : s.loadRegs ks = { s with v := (s.loadRegs ks).v } := by
  induction ks generalizing s with
  | nil => rfl
  | cons k ks ih =>
    simp only [State.loadRegs]
    rw [ih]
    rfl

theorem State.reg_loadRegs (ks : List Nibble) (s : State) (q : Nibble) :
    (s.loadRegs ks).reg q = if q ∈ ks then s.readByte (s.indexed q.val) else s.reg q := by
  induction ks generalizing s with
  | nil => simp [State.loadRegs]
  | cons k ks ih =>
    simp only [State.loadRegs, ih, State.readByte_setReg, State.indexed_setReg, List.mem_cons, State.reg_setReg]
    by_cases h1 : q ∈ ks
    · simp [h1]
    · by_cases h2 : q = k
      · subst h2; simp
      · simp [h1, h2]

/-! ### The parts of a cycle -/

@[simp] theorem tickTimer_zero : tickTimer 0#8 = 0#8 := rfl

/-- A timer counts down by one and stops at zero (40_cycle_engine.md R125). -/
theorem tickTimer_toNat (b : Byte) : (tickTimer b).toNat = b.toNat - 1 := by
  unfold tickTimer
  split
  · next h => subst h; rfl
  · next h =>
    have : b.toNat ≠ 0 := fun e => h (BitVec.eq_of_toNat_eq e)
    bv_omega

/-- What the end of a cycle changes: the two timers and the draw counter. -/
theorem State.endCycle_eq (s : State) :
    s.endCycle = { s with dt := tickTimer s.dt, st := tickTimer s.st, draws := s.draws + 1 } := rfl

theorem State.advance_eq (s : State) : s.advance = { s with pc := (s.pc + 2#16) % 4096#16 } := rfl

/-- A skip leaves everything but pc alone. -/
theorem State.skipIf_eq (s : State) (c : Bool) :
    s.skipIf c = { s with pc := if c then (s.pc + 2#16) % 4096#16 else s.pc } := by
  unfold State.skipIf
  cases c <;> rfl

/-- The word of two bytes, as a number (40_cycle_engine.md R121). -/
theorem wordOfBytes_toNat (first second : Byte) :
    (wordOfBytes first second).toNat = first.toNat * 256 + second.toNat := by
  have h1 := first.isLt
  have h2 := second.isLt
  simp only [wordOfBytes, BitVec.toNat_ofNat]
  omega

theorem wordOfBytes_bytes (w : Word) : wordOfBytes (highByte w) (lowByte w) = w := by
  apply BitVec.eq_of_toNat_eq
  have h := w.isLt
  rw [wordOfBytes_toNat]
  simp only [highByte, lowByte, bits, BitVec.toNat_ofNat]
  omega

/-- The result, then the flag (42_alu.md R160). -/
theorem State.reg_setRegThenFlag (s : State) (x q : Nibble) (b : Byte) (f : Bool) :
    (s.setRegThenFlag x b f).reg q = if q = flagReg then flagByte f else if q = x then b else s.reg q := by
  simp only [State.setRegThenFlag, State.setFlag, State.reg_setReg]

/-- Writing a result and a flag touches the V registers only. -/
theorem State.setRegThenFlag_eq (s : State) (x : Nibble) (b : Byte) (f : Bool) :
    s.setRegThenFlag x b f = { s with v := (s.setRegThenFlag x b f).v } := rfl

/-! ### The least pressed key -/

/-- The scan of 44_keys_timers.md R213 finds a key that is pressed and below which none is. -/
theorem State.firstKey_eq_some_iff (s : State) (k : Nibble) :
    s.firstKey = some k ↔ s.key k = true ∧ ∀ j : Nibble, j < k → s.key j = false := by
  unfold State.firstKey
  constructor
  · intro h
    obtain ⟨hk, as, bs, hsplit, has⟩ := List.find?_eq_some_iff_append.mp h
    refine ⟨hk, fun j hj => ?_⟩
    have hsorted : (as ++ k :: bs).Pairwise (· < ·) := hsplit ▸ List.pairwise_lt_finRange 16
    have hmem : j ∈ as ++ k :: bs := hsplit ▸ List.mem_finRange j
    rcases List.mem_append.mp hmem with hj' | hj'
    · simpa using has j hj'
    · rcases List.mem_cons.mp hj' with rfl | hj'
      · exact absurd hj (lt_irrefl _)
      · have := (List.pairwise_cons.mp (List.pairwise_append.mp hsorted).2.1).1 j hj'
        exact absurd hj (not_lt.mpr this.le)
  · rintro ⟨hk, hlow⟩
    cases h : (List.finRange 16).find? (fun k => s.key k) with
    | none =>
      have := List.find?_eq_none.mp h k (List.mem_finRange k)
      simp [hk] at this
    | some j =>
      obtain ⟨hj, as, bs, hsplit, has⟩ := List.find?_eq_some_iff_append.mp h
      have hsorted : (as ++ j :: bs).Pairwise (· < ·) := hsplit ▸ List.pairwise_lt_finRange 16
      have hmem : k ∈ as ++ j :: bs := hsplit ▸ List.mem_finRange k
      rcases List.mem_append.mp hmem with hk' | hk'
      · have := has k hk'
        simp [hk] at this
      · rcases List.mem_cons.mp hk' with rfl | hk'
        · rfl
        · have hlt := (List.pairwise_cons.mp (List.pairwise_append.mp hsorted).2.1).1 k hk'
          simp [hlow j hlt] at hj

theorem State.firstKey_eq_none_iff (s : State) : s.firstKey = none ↔ ∀ k : Nibble, s.key k = false := by
  simp [State.firstKey]

end Sys2Proof.Machine
end

