-- ==== Sys2Proof/Laws/PerInstr.lean ====
section
/-! SUPPORT. Statements about every instruction as syntax, one lemma for each constructor. The family
PrimaryNibble: the encoder puts the primary nibble of 30_encoding.md R97 and R98 into bits 15:12. -/

namespace Sys2Proof.Laws

/-- The primary nibble of an instruction (30_encoding.md R97, R98). -/
def primaryNibble : Instr → Nibble
  | .cls _ _ => 0x0
  | .ret _ _ => 0x0
  | .jp _ => 0x1
  | .call _ => 0x2
  | .seByte _ _ => 0x3
  | .sneByte _ _ => 0x4
  | .seReg _ _ _ => 0x5
  | .ldByte _ _ => 0x6
  | .addByte _ _ => 0x7
  | .ldReg _ _ => 0x8
  | .orReg _ _ => 0x8
  | .andReg _ _ => 0x8
  | .xorReg _ _ => 0x8
  | .addReg _ _ => 0x8
  | .subReg _ _ => 0x8
  | .shr _ _ => 0x8
  | .subnReg _ _ => 0x8
  | .shl _ _ => 0x8
  | .sneReg _ _ _ => 0x9
  | .ldI _ => 0xA
  | .jpV0 _ => 0xB
  | .rnd _ _ => 0xC
  | .drw _ _ _ => 0xD
  | .skp _ _ => 0xE
  | .sknp _ _ => 0xE
  | .ldVxDt _ => 0xF
  | .ldVxK _ => 0xF
  | .ldDtVx _ => 0xF
  | .ldStVx _ => 0xF
  | .addI _ => 0xF
  | .ldF _ => 0xF
  | .ldB _ => 0xF
  | .ldMemVx _ => 0xF
  | .ldVxMem _ => 0xF

/-- Bits 15:12 of the instruction's word are its primary nibble. -/
def PrimaryNibble.Statement (i : Instr) : Prop := fieldOp i.encode = primaryNibble i

theorem PrimaryNibble.cls (x y : Nibble) : PrimaryNibble.Statement (.cls x y) :=
  fieldOp_packXYN _ _ _ _

theorem PrimaryNibble.ret (x y : Nibble) : PrimaryNibble.Statement (.ret x y) :=
  fieldOp_packXYN _ _ _ _

theorem PrimaryNibble.jp (nnn : Addr) : PrimaryNibble.Statement (.jp nnn) :=
  fieldOp_packNNN _ _

theorem PrimaryNibble.call (nnn : Addr) : PrimaryNibble.Statement (.call nnn) :=
  fieldOp_packNNN _ _

theorem PrimaryNibble.seByte (x : Nibble) (nn : Byte) : PrimaryNibble.Statement (.seByte x nn) :=
  fieldOp_packXNN _ _ _

theorem PrimaryNibble.sneByte (x : Nibble) (nn : Byte) : PrimaryNibble.Statement (.sneByte x nn) :=
  fieldOp_packXNN _ _ _

theorem PrimaryNibble.seReg (x y n : Nibble) : PrimaryNibble.Statement (.seReg x y n) :=
  fieldOp_packXYN _ _ _ _

theorem PrimaryNibble.ldByte (x : Nibble) (nn : Byte) : PrimaryNibble.Statement (.ldByte x nn) :=
  fieldOp_packXNN _ _ _

theorem PrimaryNibble.addByte (x : Nibble) (nn : Byte) : PrimaryNibble.Statement (.addByte x nn) :=
  fieldOp_packXNN _ _ _

theorem PrimaryNibble.ldReg (x y : Nibble) : PrimaryNibble.Statement (.ldReg x y) :=
  fieldOp_packXYN _ _ _ _

theorem PrimaryNibble.orReg (x y : Nibble) : PrimaryNibble.Statement (.orReg x y) :=
  fieldOp_packXYN _ _ _ _

theorem PrimaryNibble.andReg (x y : Nibble) : PrimaryNibble.Statement (.andReg x y) :=
  fieldOp_packXYN _ _ _ _

theorem PrimaryNibble.xorReg (x y : Nibble) : PrimaryNibble.Statement (.xorReg x y) :=
  fieldOp_packXYN _ _ _ _

theorem PrimaryNibble.addReg (x y : Nibble) : PrimaryNibble.Statement (.addReg x y) :=
  fieldOp_packXYN _ _ _ _

theorem PrimaryNibble.subReg (x y : Nibble) : PrimaryNibble.Statement (.subReg x y) :=
  fieldOp_packXYN _ _ _ _

theorem PrimaryNibble.shr (x y : Nibble) : PrimaryNibble.Statement (.shr x y) :=
  fieldOp_packXYN _ _ _ _

theorem PrimaryNibble.subnReg (x y : Nibble) : PrimaryNibble.Statement (.subnReg x y) :=
  fieldOp_packXYN _ _ _ _

theorem PrimaryNibble.shl (x y : Nibble) : PrimaryNibble.Statement (.shl x y) :=
  fieldOp_packXYN _ _ _ _

theorem PrimaryNibble.sneReg (x y n : Nibble) : PrimaryNibble.Statement (.sneReg x y n) :=
  fieldOp_packXYN _ _ _ _

theorem PrimaryNibble.ldI (nnn : Addr) : PrimaryNibble.Statement (.ldI nnn) :=
  fieldOp_packNNN _ _

theorem PrimaryNibble.jpV0 (nnn : Addr) : PrimaryNibble.Statement (.jpV0 nnn) :=
  fieldOp_packNNN _ _

theorem PrimaryNibble.rnd (x : Nibble) (nn : Byte) : PrimaryNibble.Statement (.rnd x nn) :=
  fieldOp_packXNN _ _ _

theorem PrimaryNibble.drw (x y n : Nibble) : PrimaryNibble.Statement (.drw x y n) :=
  fieldOp_packXYN _ _ _ _

theorem PrimaryNibble.skp (x y : Nibble) : PrimaryNibble.Statement (.skp x y) :=
  fieldOp_packXYN _ _ _ _

theorem PrimaryNibble.sknp (x y : Nibble) : PrimaryNibble.Statement (.sknp x y) :=
  fieldOp_packXYN _ _ _ _

theorem PrimaryNibble.ldVxDt (x : Nibble) : PrimaryNibble.Statement (.ldVxDt x) :=
  fieldOp_packXNN _ _ _

theorem PrimaryNibble.ldVxK (x : Nibble) : PrimaryNibble.Statement (.ldVxK x) :=
  fieldOp_packXNN _ _ _

theorem PrimaryNibble.ldDtVx (x : Nibble) : PrimaryNibble.Statement (.ldDtVx x) :=
  fieldOp_packXNN _ _ _

theorem PrimaryNibble.ldStVx (x : Nibble) : PrimaryNibble.Statement (.ldStVx x) :=
  fieldOp_packXNN _ _ _

theorem PrimaryNibble.addI (x : Nibble) : PrimaryNibble.Statement (.addI x) :=
  fieldOp_packXNN _ _ _

theorem PrimaryNibble.ldF (x : Nibble) : PrimaryNibble.Statement (.ldF x) :=
  fieldOp_packXNN _ _ _

theorem PrimaryNibble.ldB (x : Nibble) : PrimaryNibble.Statement (.ldB x) :=
  fieldOp_packXNN _ _ _

theorem PrimaryNibble.ldMemVx (x : Nibble) : PrimaryNibble.Statement (.ldMemVx x) :=
  fieldOp_packXNN _ _ _

theorem PrimaryNibble.ldVxMem (x : Nibble) : PrimaryNibble.Statement (.ldVxMem x) :=
  fieldOp_packXNN _ _ _

end Sys2Proof.Laws
end

