-- ==== Sys2Proof/Tests/Slice0.lean ====
section
/-! SUPPORT. The model's own tests: the checks of WellFormed, a word of each row, single cycles from the vectors of
95_test_vectors.md (the name of a test ends in the vector it takes its expected values from), and for every
statement with hypotheses a state and operands that meet them. -/

namespace Sys2Proof.Machine.Tests

/-! ### Well-formedness refuses an ill-formed term for each of its checks -/

theorem test_wf_cls : (Instr.cls 0 0xE).wellFormed = true ∧ (Instr.cls 0 0x1).wellFormed = false := by decide
theorem test_wf_ret : (Instr.ret 0 0xE).wellFormed = true ∧ (Instr.ret 0 0x2).wellFormed = false := by decide
theorem test_wf_skp : (Instr.skp 2 0x9).wellFormed = true ∧ (Instr.skp 2 0xF).wellFormed = false := by decide
theorem test_wf_sknp : (Instr.sknp 2 0xA).wellFormed = true ∧ (Instr.sknp 2 0x3).wellFormed = false := by decide
theorem test_wf_nibble_key : (Instr.cls 0 0x1).wellFormedWith .nibble = true := by decide

/-! ### A word of each row decodes, and the instruction encodes to it (30_encoding.md R97, R98) -/

theorem test_decode_cls : decodeWord 0x01E0#16 = .ok (.cls 1 0xE) ∧ Instr.encode (.cls 1 0xE) = 0x01E0#16 := by decide
theorem test_decode_ret : decodeWord 0x0FEE#16 = .ok (.ret 0xF 0xE) ∧ Instr.encode (.ret 0xF 0xE) = 0x0FEE#16 := by decide
theorem test_decode_jp : decodeWord 0x1234#16 = .ok (.jp 0x234#12) ∧ Instr.encode (.jp 0x234#12) = 0x1234#16 := by decide
theorem test_decode_call : decodeWord 0x2300#16 = .ok (.call 0x300#12) ∧ Instr.encode (.call 0x300#12) = 0x2300#16 := by decide
theorem test_decode_seByte : decodeWord 0x3342#16 = .ok (.seByte 3 0x42#8) ∧ Instr.encode (.seByte 3 0x42#8) = 0x3342#16 := by decide
theorem test_decode_sneByte : decodeWord 0x4342#16 = .ok (.sneByte 3 0x42#8) ∧ Instr.encode (.sneByte 3 0x42#8) = 0x4342#16 := by decide
theorem test_decode_seReg : decodeWord 0x5121#16 = .ok (.seReg 1 2 1) ∧ Instr.encode (.seReg 1 2 1) = 0x5121#16 := by decide
theorem test_decode_ldByte : decodeWord 0x600A#16 = .ok (.ldByte 0 0x0A#8) ∧ Instr.encode (.ldByte 0 0x0A#8) = 0x600A#16 := by decide
theorem test_decode_addByte : decodeWord 0x7005#16 = .ok (.addByte 0 0x05#8) ∧ Instr.encode (.addByte 0 0x05#8) = 0x7005#16 := by decide
theorem test_decode_ldReg : decodeWord 0x8010#16 = .ok (.ldReg 0 1) ∧ Instr.encode (.ldReg 0 1) = 0x8010#16 := by decide
theorem test_decode_orReg : decodeWord 0x8011#16 = .ok (.orReg 0 1) ∧ Instr.encode (.orReg 0 1) = 0x8011#16 := by decide
theorem test_decode_andReg : decodeWord 0x8012#16 = .ok (.andReg 0 1) ∧ Instr.encode (.andReg 0 1) = 0x8012#16 := by decide
theorem test_decode_xorReg : decodeWord 0x8013#16 = .ok (.xorReg 0 1) ∧ Instr.encode (.xorReg 0 1) = 0x8013#16 := by decide
theorem test_decode_addReg : decodeWord 0x8F14#16 = .ok (.addReg 0xF 1) ∧ Instr.encode (.addReg 0xF 1) = 0x8F14#16 := by decide
theorem test_decode_subReg : decodeWord 0x8015#16 = .ok (.subReg 0 1) ∧ Instr.encode (.subReg 0 1) = 0x8015#16 := by decide
theorem test_decode_shr : decodeWord 0x8016#16 = .ok (.shr 0 1) ∧ Instr.encode (.shr 0 1) = 0x8016#16 := by decide
theorem test_decode_subnReg : decodeWord 0x8017#16 = .ok (.subnReg 0 1) ∧ Instr.encode (.subnReg 0 1) = 0x8017#16 := by decide
theorem test_decode_shl : decodeWord 0x8FFE#16 = .ok (.shl 0xF 0xF) ∧ Instr.encode (.shl 0xF 0xF) = 0x8FFE#16 := by decide
theorem test_decode_sneReg : decodeWord 0x912F#16 = .ok (.sneReg 1 2 0xF) ∧ Instr.encode (.sneReg 1 2 0xF) = 0x912F#16 := by decide
theorem test_decode_ldI : decodeWord 0xA200#16 = .ok (.ldI 0x200#12) ∧ Instr.encode (.ldI 0x200#12) = 0xA200#16 := by decide
theorem test_decode_jpV0 : decodeWord 0xBFFF#16 = .ok (.jpV0 0xFFF#12) ∧ Instr.encode (.jpV0 0xFFF#12) = 0xBFFF#16 := by decide
theorem test_decode_rnd : decodeWord 0xC00F#16 = .ok (.rnd 0 0x0F#8) ∧ Instr.encode (.rnd 0 0x0F#8) = 0xC00F#16 := by decide
theorem test_decode_drw : decodeWord 0xD125#16 = .ok (.drw 1 2 5) ∧ Instr.encode (.drw 1 2 5) = 0xD125#16 := by decide
theorem test_decode_skp : decodeWord 0xE29E#16 = .ok (.skp 2 9) ∧ Instr.encode (.skp 2 9) = 0xE29E#16 := by decide
theorem test_decode_sknp : decodeWord 0xE2A1#16 = .ok (.sknp 2 0xA) ∧ Instr.encode (.sknp 2 0xA) = 0xE2A1#16 := by decide
theorem test_decode_ldVxDt : decodeWord 0xF107#16 = .ok (.ldVxDt 1) ∧ Instr.encode (.ldVxDt 1) = 0xF107#16 := by decide
theorem test_decode_ldVxK : decodeWord 0xF00A#16 = .ok (.ldVxK 0) ∧ Instr.encode (.ldVxK 0) = 0xF00A#16 := by decide
theorem test_decode_ldDtVx : decodeWord 0xF015#16 = .ok (.ldDtVx 0) ∧ Instr.encode (.ldDtVx 0) = 0xF015#16 := by decide
theorem test_decode_ldStVx : decodeWord 0xF018#16 = .ok (.ldStVx 0) ∧ Instr.encode (.ldStVx 0) = 0xF018#16 := by decide
theorem test_decode_addI : decodeWord 0xF41E#16 = .ok (.addI 4) ∧ Instr.encode (.addI 4) = 0xF41E#16 := by decide
theorem test_decode_ldF : decodeWord 0xF029#16 = .ok (.ldF 0) ∧ Instr.encode (.ldF 0) = 0xF029#16 := by decide
theorem test_decode_ldB : decodeWord 0xF033#16 = .ok (.ldB 0) ∧ Instr.encode (.ldB 0) = 0xF033#16 := by decide
theorem test_decode_ldMemVx : decodeWord 0xF255#16 = .ok (.ldMemVx 2) ∧ Instr.encode (.ldMemVx 2) = 0xF255#16 := by decide
theorem test_decode_ldVxMem : decodeWord 0xF265#16 = .ok (.ldVxMem 2) ∧ Instr.encode (.ldVxMem 2) = 0xF265#16 := by decide

/-- 30_encoding.md R100, vectors FD3, FD4, FD10. -/
theorem test_decode_unregistered :
    decodeWord 0x0000#16 = .error .family0 ∧ decodeWord 0x00E1#16 = .error .family0 ∧
    decodeWord 0x8008#16 = .error .family8 ∧ decodeWord 0xE19F#16 = .error .familyE ∧
    decodeWord 0xE1FE#16 = .error .familyE ∧ decodeWord 0xF0FF#16 = .error .familyF ∧
    decodeWord 0xFFFF#16 = .error .familyF := by decide

/-- 30_encoding.md R103, vectors FD7, FD8, FD9, FD11. -/
theorem test_decode_nibble_key :
    decodeWith .nibble 0x0000#16 = .ok (.cls 0 0) ∧ decodeWith .nibble 0x012E#16 = .ok (.ret 1 2) ∧
    decodeWith .nibble 0xE1FE#16 = .ok (.skp 1 0xF) ∧ decodeWith .nibble 0xE131#16 = .ok (.sknp 1 3) := by decide

/-- 20_memory.md R65, 30_encoding.md R90. -/
theorem test_decode_bytes :
    decodeBytes [0x12#8, 0x34#8, 0x56#8] = .ok (.jp 0x234#12, [0x56#8]) ∧
    decodeBytes [0x12#8] = .error .truncated := by decide

theorem test_decodeTableWord : decodeTableWord 16 0xD125 = some (.drw 1 2 5) := by decide

/-! ### Single cycles -/

/-- The construction state, changed by f, with the word w at pc. -/
def cpu (w : Nat) (f : State → State) : State := (f State.reset).withFetchWord 16 w

/-- What is seen of the state after one cycle. -/
def seen {α : Type} (s : State) (f : State → α) : Option α :=
  match step s with
  | .next t => some (f t)
  | .fault _ => none
  | .refused _ => none

/-- The lit columns of a row. -/
def litCols (t : State) (row : Nat) : List Nat := (List.range 64).filter (fun x => t.pixel x row)

theorem test_jp_CF2 :
    seen (cpu 0x1208 (fun s => s.setPc 0x0208#16)) (fun t => t.pc) =
      some 0x0208#16 := by decide
theorem test_call_CF4 :
    seen (cpu 0x2300 (fun s => s.setSp 15)) (fun t => (t.sp, t.stackAt 0, t.pc)) =
      some (0, 0x0202#16, 0x0300#16) := by decide
theorem test_call_CF5 :
    seen (cpu 0x2400 (fun s => s.setPc 0x0FFE#16)) (fun t => (t.sp, t.stackAt 1, t.pc)) =
      some (1, 0x0000#16, 0x0400#16) := by decide
theorem test_ret_CF6 :
    seen (cpu 0x00EE (fun s => (s.setSp 1).setStackAt 1 0x0202#16)) (fun t => (t.pc, t.sp)) =
      some (0x0202#16, 0) := by decide
theorem test_ret_CF7 :
    seen (cpu 0x00EE (fun s => s)) (fun t => (t.pc, t.sp)) =
      some (0x0000#16, 15) := by decide
theorem test_seByte_CF9 :
    seen (cpu 0x3342 (fun s => s.setReg 3 0x41#8)) (fun t => t.pc) =
      some 0x0202#16 := by decide
theorem test_sneByte_CF10 :
    seen (cpu 0x4342 (fun s => s.setReg 3 0x41#8)) (fun t => t.pc) =
      some 0x0204#16 := by decide
theorem test_sneByte_CF11 :
    seen (cpu 0x4342 (fun s => s.setReg 3 0x42#8)) (fun t => t.pc) =
      some 0x0202#16 := by decide
theorem test_seReg_CF13 :
    seen (cpu 0x5121 (fun s => (s.setReg 1 0x07#8).setReg 2 0x07#8)) (fun t => t.pc) =
      some 0x0204#16 := by decide
theorem test_seReg_CF14 :
    seen (cpu 0x5120 (fun s => (s.setReg 1 0x07#8).setReg 2 0x08#8)) (fun t => t.pc) =
      some 0x0202#16 := by decide
theorem test_sneReg_CF17 :
    seen (cpu 0x912F (fun s => (s.setReg 1 0x07#8).setReg 2 0x08#8)) (fun t => t.pc) =
      some 0x0204#16 := by decide
theorem test_sneReg_CF18 :
    seen (cpu 0x9110 (fun s => s.setReg 1 0x09#8)) (fun t => t.pc) =
      some 0x0202#16 := by decide
theorem test_seByte_CF19 :
    seen (cpu 0x3000 (fun s => s.setPc 0x0FFE#16)) (fun t => t.pc) =
      some 0x0002#16 := by decide
theorem test_jpV0_CF20 :
    seen (cpu 0xB300 (fun s => s.setReg 0 0x10#8)) (fun t => t.pc) =
      some 0x0310#16 := by decide
theorem test_jpV0_CF21 :
    seen (cpu 0xBFFF (fun s => s.setReg 0 0xFF#8)) (fun t => t.pc) =
      some 0x00FE#16 := by decide
theorem test_nop_FD3 :
    seen (cpu 0x0000 (fun s => (s.setReg 0 0x01#8).setDt 0x03#8)) (fun t => (t.pc, t.dt, t.reg 0)) =
      some (0x0202#16, 0x02#8, 0x01#8) := by decide
theorem test_nop_FD4_FFFF :
    seen (cpu 0xFFFF (fun s => s.setReg 0 0x01#8)) (fun t => (t.pc, t.reg 0)) =
      some (0x0202#16, 0x01#8) := by decide
theorem test_cls_FD5 :
    seen (cpu 0x01E0 (fun s => s.setFb (Framebuffer.blank.toggle 5 5))) (fun t => (t.pixel 5 5, t.pc)) =
      some (false, 0x0202#16) := by decide
theorem test_ldByte_A2 :
    seen (cpu 0x6F55 (fun s => s)) (fun t => t.reg 0xF) =
      some 0x55#8 := by decide
theorem test_addByte_A3 :
    seen (cpu 0x7005 (fun s => s.setReg 0 0x0A#8)) (fun t => t.reg 0) =
      some 0x0F#8 := by decide
theorem test_addByte_A4 :
    seen (cpu 0x7001 (fun s => (s.setReg 0 0xFF#8).setReg 0xF 0x07#8)) (fun t => (t.reg 0, t.reg 0xF)) =
      some (0x00#8, 0x07#8) := by decide
theorem test_ldReg_A5 :
    seen (cpu 0x8010 (fun s => s.setReg 1 0x33#8)) (fun t => t.reg 0) =
      some 0x33#8 := by decide
theorem test_orReg_A6 :
    seen (cpu 0x8011 (fun s => ((s.setReg 0 0xF0#8).setReg 1 0x3C#8).setReg 0xF 0x07#8)) (fun t => (t.reg 0, t.reg 0xF)) =
      some (0xFC#8, 0x07#8) := by decide
theorem test_andReg_A7 :
    seen (cpu 0x8012 (fun s => ((s.setReg 0 0xF0#8).setReg 1 0x3C#8).setReg 0xF 0x07#8)) (fun t => (t.reg 0, t.reg 0xF)) =
      some (0x30#8, 0x07#8) := by decide
theorem test_xorReg_A8 :
    seen (cpu 0x8013 (fun s => ((s.setReg 0 0xF0#8).setReg 1 0x3C#8).setReg 0xF 0x07#8)) (fun t => (t.reg 0, t.reg 0xF)) =
      some (0xCC#8, 0x07#8) := by decide
theorem test_xorReg_A9 :
    seen (cpu 0x8003 (fun s => s.setReg 0 0x5A#8)) (fun t => t.reg 0) =
      some 0x00#8 := by decide
theorem test_addReg_A12 :
    seen (cpu 0x8F14 (fun s => (s.setReg 0xF 0xFF#8).setReg 1 0x01#8)) (fun t => t.reg 0xF) =
      some 0x01#8 := by decide
theorem test_addReg_A13 :
    seen (cpu 0x80F4 (fun s => (s.setReg 0 0x10#8).setReg 0xF 0x05#8)) (fun t => (t.reg 0, t.reg 0xF)) =
      some (0x15#8, 0x00#8) := by decide
theorem test_subReg_L12 :
    seen (cpu 0x8015 (fun s => (s.setReg 0 0x03#8).setReg 1 0x05#8)) (fun t => (t.reg 0, t.reg 0xF)) =
      some (0xFE#8, 0x00#8) := by decide
theorem test_subnReg_L12b :
    seen (cpu 0x8017 (fun s => (s.setReg 0 0x03#8).setReg 1 0x05#8)) (fun t => (t.reg 0, t.reg 0xF)) =
      some (0x02#8, 0x01#8) := by decide
theorem test_subReg_A16 :
    seen (cpu 0x8F15 (fun s => (s.setReg 0xF 0x05#8).setReg 1 0x03#8)) (fun t => t.reg 0xF) =
      some 0x01#8 := by decide
theorem test_subnReg_A18 :
    seen (cpu 0x8017 (fun s => s.setReg 0 0x01#8)) (fun t => (t.reg 0, t.reg 0xF)) =
      some (0xFF#8, 0x00#8) := by decide
theorem test_shr_L13c :
    seen (cpu 0x8F06 (fun s => s.setReg 0xF 0x03#8)) (fun t => t.reg 0xF) =
      some 0x01#8 := by decide
theorem test_shr_A23 :
    seen (cpu 0x8016 (fun s => (s.setReg 0 0x04#8).setReg 1 0xFF#8)) (fun t => (t.reg 0, t.reg 0xF)) =
      some (0x02#8, 0x00#8) := by decide
theorem test_shl_A24 :
    seen (cpu 0x800E (fun s => s.setReg 0 0x80#8)) (fun t => (t.reg 0, t.reg 0xF)) =
      some (0x00#8, 0x01#8) := by decide
theorem test_shl_A27 :
    seen (cpu 0x8F0E (fun s => s.setReg 0xF 0x80#8)) (fun t => t.reg 0xF) =
      some 0x01#8 := by decide
theorem test_drw_DR4 :
    seen (cpu 0xD015 (fun s => s.setReg 0 0x3E#8)) (fun t => (litCols t 0, litCols t 1, litCols t 2, litCols t 3)) =
      some ([62, 63], [62], [62], [62]) := by decide
theorem test_drw_DR12 :
    seen (cpu 0xD013 (fun s => ((s.setIndex 0x0FFE#16).writeByte 0xFFE 0x80#8).writeByte 0xFFF 0x40#8)) (fun t => (litCols t 0, litCols t 1, litCols t 2, t.reg 0xF)) =
      some ([0], [1], [0, 1, 2, 3], 0x00#8) := by decide
theorem test_cls_DR1 :
    seen (cpu 0x00E0 (fun s => (s.setFb (Framebuffer.blank.toggle 5 5)).setReg 0xF 0x07#8)) (fun t => (t.pixel 5 5, t.reg 0xF)) =
      some (false, 0x07#8) := by decide
theorem test_skp_KT2 :
    seen (cpu 0xE29E (fun s => s.setReg 2 0x05#8)) (fun t => t.pc) =
      some 0x0202#16 := by decide
theorem test_skp_KT3 :
    seen (cpu 0xE29E (fun s => (s.setReg 2 0x15#8).setKey 5 true)) (fun t => t.pc) =
      some 0x0204#16 := by decide
theorem test_sknp_KT4 :
    seen (cpu 0xE2A1 (fun s => s.setReg 2 0x05#8)) (fun t => t.pc) =
      some 0x0204#16 := by decide
theorem test_sknp_KT5 :
    seen (cpu 0xE2A1 (fun s => (s.setReg 2 0x05#8).setKey 5 true)) (fun t => t.pc) =
      some 0x0202#16 := by decide
theorem test_ldVxDt_KT6 :
    seen (cpu 0xF107 (fun s => s.setDt 0x04#8)) (fun t => (t.reg 1, t.dt)) =
      some (0x04#8, 0x03#8) := by decide
theorem test_ldVxK_KT8 :
    seen (cpu 0xF00A (fun s => (s.setKey 7 true).setKey 3 true)) (fun t => (t.reg 0, t.pc)) =
      some (0x03#8, 0x0202#16) := by decide
theorem test_ldVxK_KT10 :
    seen (cpu 0xF00A (fun s => s.setPc 0x0FFE#16)) (fun t => t.pc) =
      some 0x0FFE#16 := by decide
theorem test_ldDtVx_KT12 :
    seen (cpu 0xF015 (fun s => s.setReg 0 0x05#8)) (fun t => t.dt) =
      some 0x04#8 := by decide
theorem test_ldDtVx_KT13 :
    seen (cpu 0xF015 (fun s => s.setReg 0 0x01#8)) (fun t => t.dt) =
      some 0x00#8 := by decide
theorem test_ldStVx_KT15 :
    seen (cpu 0xF018 (fun s => s.setReg 0 0x02#8)) (fun t => t.st) =
      some 0x01#8 := by decide
theorem test_ldI_IM2 :
    seen (cpu 0xAFFF (fun s => s)) (fun t => t.i) =
      some 0x0FFF#16 := by decide
theorem test_addI_IM4 :
    seen (cpu 0xF01E (fun s => (s.setIndex 0x0FFF#16).setReg 0 0x01#8)) (fun t => t.i) =
      some 0x1000#16 := by decide
theorem test_addI_IM5 :
    seen (cpu 0xF01E (fun s => ((s.setIndex 0xFFFF#16).setReg 0 0x02#8).setReg 0xF 0x09#8)) (fun t => (t.i, t.reg 0xF)) =
      some (0x0001#16, 0x09#8) := by decide
theorem test_ldF_IM7 :
    seen (cpu 0xF029 (fun s => s.setReg 0 0x0A#8)) (fun t => t.i) =
      some 0x0032#16 := by decide
theorem test_ldF_IM10 :
    seen (cpu 0xF029 (fun s => s.setReg 0 0xFF#8)) (fun t => t.i) =
      some 0x04FB#16 := by decide
theorem test_ldB_IM12 :
    seen (cpu 0xF033 (fun s => (s.setReg 0 0xFF#8).setIndex 0x0300#16)) (fun t => (t.readByte 0x300, t.readByte 0x301, t.readByte 0x302)) =
      some (0x02#8, 0x05#8, 0x05#8) := by decide
theorem test_ldB_IM16 :
    seen (cpu 0xF033 (fun s => (s.setReg 0 0x7B#8).setIndex 0x0FFE#16)) (fun t => (t.readByte 0xFFE, t.readByte 0xFFF, t.readByte 0x000)) =
      some (0x01#8, 0x02#8, 0x03#8) := by decide
theorem test_ldMemVx_IM17 :
    seen (cpu 0xF255 (fun s => ((((s.setReg 0 0x01#8).setReg 1 0x02#8).setReg 2 0x03#8).setIndex 0x0300#16).writeByte 0x303 0xAA#8)) (fun t => (t.readByte 0x300, t.readByte 0x301, t.readByte 0x302, t.readByte 0x303)) =
      some (0x01#8, 0x02#8, 0x03#8, 0xAA#8) := by decide
theorem test_ldMemVx_IM20 :
    seen (cpu 0xF155 (fun s => ((s.setReg 0 0xAB#8).setReg 1 0xCD#8).setIndex 0x0FFF#16)) (fun t => (t.readByte 0xFFF, t.readByte 0x000)) =
      some (0xAB#8, 0xCD#8) := by decide
theorem test_ldVxMem_IM21 :
    seen (cpu 0xF265 (fun s => ((((s.writeByte 0x300 0x02#8).writeByte 0x301 0x05#8).writeByte 0x302 0x04#8).setReg 3 0x99#8).setIndex 0x0300#16)) (fun t => (t.reg 0, t.reg 1, t.reg 2, t.reg 3)) =
      some (0x02#8, 0x05#8, 0x04#8, 0x99#8) := by decide
theorem test_ldVxMem_IM23 :
    seen (cpu 0xF065 (fun s => s.setIndex 0x1000#16)) (fun t => t.reg 0) =
      some 0xF0#8 := by decide

/-- A29 with a free draw: V0 is the draw of cycle 0 masked by 0x0F (42_alu.md R172). -/
theorem test_rnd_A29 : ∃ t, step (cpu 0xC00F (fun s => s)) = .next t ∧ t.reg 0 = Config.rand 0 &&& 0x0F#8 ∧
    t.draws = 1 := ⟨_, rfl, rfl, rfl⟩

/-- FD1: a fetch at 0xFFF takes its low byte from 0x000. -/
theorem test_fetch_wraps_FD1 :
    seen ((State.reset.setPc 0xFFF#16).writeByte 0xFFF 0x12#8) (fun t => t.pc) = some 0x2F0#16 := by decide

/-- FD2: an odd fetch. -/
theorem test_fetch_odd_FD2 :
    seen (((State.reset.setPc 0x201#16).writeByte 0x201 0x13#8).writeByte 0x202 0x00#8) (fun t => t.pc) =
      some 0x300#16 := by decide

/-- DR8: the alternative DRAW_Y_MOD. -/
theorem test_drawSprite_DR8 : litCols ((State.reset.setReg 1 0x28#8).drawSprite 32 0 1 5) 8 = [0, 1, 2, 3] := by
  decide

/-- 70_reset_and_hazards.md R283: a ROM that wraps to 0x000, and P1's ROM. -/
theorem test_loadRom :
    (State.reset.loadRom [0x60#8, 0x0A#8]).readByte 0x201 = 0x0A#8 ∧
    ((State.reset.setPc 0#16).writeBytes 0xFFF [0x11#8, 0x22#8]).readByte 0x000 = 0x22#8 := by decide

/-- The canonical form: a byte written back to what it was is no longer listed. -/
theorem test_memory_canonical :
    ((State.reset.writeByte 0x300 0xAA#8).writeByte 0x300 0x00#8).mem = [] ∧
    ((State.reset.writeByte 0x300 1#8).writeByte 0x200 2#8).mem = [(0x200, 2#8), (0x300, 1#8)] := by decide

/-- 60_exceptions.md R263 with PIXEL_BITS = 8: glyph 0's first lit cell. -/
theorem test_pixelValue : pixelValue 8 true = 0xFF#8 ∧ pixelValue 8 false = 0x00#8 := by decide

/-! ### For every statement with hypotheses, a state and operands that meet them together -/

theorem witness_WellFormedInstructionDecodesBack :
    (Instr.cls 3 0xE).wellFormedWith .byte = true ∧ (Instr.cls 3 0x0).wellFormedWith .nibble = true ∧
    (Instr.drw 0xF 0xF 0xF).wellFormedWith .byte = true := by decide

theorem witness_DecodedWordEncodesBack :
    decodeWith .byte 0x0FEE#16 = .ok (.ret 0xF 0xE) ∧ decodeWith .nibble 0x0FF0#16 = .ok (.cls 0xF 0xF) := by decide

theorem witness_MatchAndMaskSelectTheDecodedRow :
    decodeWord 0x8016#16 = .ok (.shr 0 1) ∧
    ∃ r ∈ opcodeTable, 0x8016#16 &&& r.mask = r.pattern := by
  refine ⟨by decide, (Instr.shr 0 1).row, by decide, by decide⟩

/-- A word of each clause, at the ends of its range, and registered neighbours of the clauses. -/
theorem witness_UnregisteredWordsAreThoseListed :
    decodeWord 0x0000#16 = .error .family0 ∧ decodeWord 0x0FFF#16 = .error .family0 ∧
    decodeWord 0x8008#16 = .error .family8 ∧ decodeWord 0x8FFF#16 = .error .family8 ∧
    decodeWord 0xE000#16 = .error .familyE ∧ decodeWord 0xEFFF#16 = .error .familyE ∧
    decodeWord 0xF000#16 = .error .familyF ∧ decodeWord 0xFFFF#16 = .error .familyF ∧
    decodeWord 0x8FFE#16 = .ok (.shl 0xF 0xF) ∧ decodeWord 0x8007#16 = .ok (.subnReg 0 0) := by decide

theorem witness_NibbleKeyChangesFamilies0AndE :
    (0x1000#16).toNat / 4096 ≠ 0x0 ∧ (0x1000#16).toNat / 4096 ≠ 0xE ∧
    (0xF065#16).toNat / 4096 ≠ 0x0 ∧ (0xF065#16).toNat / 4096 ≠ 0xE := by decide

/-- Both clauses: a registered word and an unregistered one at pc, there also at pc = 0xFFF. -/
theorem witness_StepRunsTheDecodedInstruction :
    decodeWord (wordOfBytes ((cpu 0x600A id).readByte 0x200) ((cpu 0x600A id).readByte 0x201)) =
      .ok (.ldByte 0 0x0A#8) ∧
    decodeWord (wordOfBytes (State.reset.readByte 0x200) (State.reset.readByte 0x201)) = .error .family0 ∧
    (cpu 0x1208 (fun s => s.setPc 0xFFF#16)).fetchInstr = .ok (.jp 0x208#12) := by decide

theorem witness_EveryCycleAnswersANextState :
    (cpu 0xF30A id).fetchInstr = .ok (.ldVxK 3) ∧ (cpu 0xF30A id).pc.toNat < 4096 ∧
    ∀ k, (cpu 0xF30A id).key k = false := by decide

/-- Each of the four clauses. -/
theorem witness_TimersTickInEveryCycle :
    (cpu 0xF315 id).fetchInstr = .ok (.ldDtVx 3) ∧ (cpu 0xF318 id).fetchInstr = .ok (.ldStVx 3) ∧
    (∀ x, (cpu 0xF318 id).fetchInstr ≠ .ok (.ldDtVx x)) ∧ ∀ x, State.reset.fetchInstr ≠ .ok (.ldStVx x) := by decide

/-- One cycle of a self-loop, with a key pressed before it. -/
theorem witness_UnwrittenTimersCountDown : ∃ (f : Nat → State) (ks : Nat → Vector Bool 16),
    (∀ j, j < 1 → step { f j with keys := ks j } = .next (f (j + 1))) ∧
    (∀ j, j < 1 → ∀ x, (f j).fetchInstr ≠ .ok (.ldDtVx x)) ∧
    (∀ j, j < 1 → ∀ x, (f j).fetchInstr ≠ .ok (.ldStVx x)) := by
  refine ⟨fun j => match j with
    | 0 => cpu 0x1200 (fun s => s.setDt 5#8)
    | _ => ((cpu 0x1200 (fun s => (s.setDt 5#8).setKey 2 true)).advance.setPc 0x200#16).endCycle,
    fun _ => (State.reset.setKey 2 true).keys, ?_, ?_, ?_⟩
  · intro j hj
    obtain rfl : j = 0 := by omega
    rfl
  · intro j hj
    obtain rfl : j = 0 := by omega
    decide
  · intro j hj
    obtain rfl : j = 0 := by omega
    decide

/-- A memory with a listed cell is canonical; so is the one at construction. -/
theorem witness_memory_wf : (State.reset.writeByte 0x300 1#8).mem.wf = true ∧ State.reset.mem.wf = true := by decide

theorem witness_FetchSeesEarlierStores : (cpu 0x1208 (fun s => s.setPc 0xFFF#16)).mem.wf = true := by decide

theorem witness_ConstructionState :
    (80 ≤ 80 ∧ 80 < 4096) ∧ State.reset.readByte 79 = 0x80#8 ∧ State.reset.readByte 80 = 0#8 ∧ State.reset.readByte 4095 = 0#8 := by decide

theorem witness_CycleKeepsInvariant :
    (∃ t, State.reset.Inv ∧ step State.reset = .next t) ∧
    ∃ t, (cpu 0x2300 id).Inv ∧ step (cpu 0x2300 id) = .next t :=
  ⟨⟨_, ⟨rfl, by decide, by decide⟩, rfl⟩, ⟨_, ⟨by decide, by decide, by decide⟩, rfl⟩⟩

theorem witness_EnvironmentKeepsInvariant : (State.reset.setKey 5 true).Inv := ⟨rfl, by decide, by decide⟩

theorem witness_RunsNeverStopAndKeepInvariant : Reachable (State.reset.loadRom [0x12#8, 0x00#8]) :=
  Reachable.boot _

/-- The first byte of a short ROM, and the bytes of a ROM of 4097 bytes at the boundary of the premise. -/
theorem witness_LoaderPlacesRom :
    (0 < [0x60#8].length ∧ [0x60#8].length ≤ 0 + 4096) ∧
    (1 < (List.replicate 4097 0x60#8).length ∧ (List.replicate 4097 0x60#8).length ≤ 1 + 4096) ∧
    State.reset.mem.wf = true := by
  simp only [List.length_replicate]
  decide

theorem witness_KeysAreSetByTheEnvironmentOnly : (3 : Nibble) ≠ 2 ∧ ∃ t, step (cpu 0xE29E id) = .next t :=
  ⟨by decide, _, rfl⟩

theorem witness_ReadoutIsRowMajor : 63 < 64 ∧ 31 < 32 ∧ 31 * 64 + 63 < 2048 := by decide

theorem witness_ReturnPopsPc : ∀ j, (State.reset.stackAt j).toNat < 4096 := by decide

/-- With an instruction between CALL and RET that leaves SP and Stack[SP] alone. -/
theorem witness_CallThenReturnRestoresPcAndSp : ∃ t u, State.reset.pc.toNat < 4096 ∧
    exec (.call 0x300#12) State.reset = .next t ∧ exec (.ldByte 1 7#8) t = .next u ∧
    u.sp = t.sp ∧ u.stackAt u.sp = t.stackAt t.sp :=
  ⟨_, _, by decide, rfl, rfl, rfl, rfl⟩

theorem witness_SkipCycleAdvancesByFourOrTwo :
    (cpu 0x3342 id).fetchInstr = .ok (.seByte 3 0x42#8) ∧ (cpu 0x4342 id).fetchInstr = .ok (.sneByte 3 0x42#8) ∧
    (cpu 0x5121 id).fetchInstr = .ok (.seReg 1 2 1) ∧ (cpu 0x912F id).fetchInstr = .ok (.sneReg 1 2 0xF) ∧
    (cpu 0xE29E id).fetchInstr = .ok (.skp 2 9) ∧ (cpu 0xE2A1 id).fetchInstr = .ok (.sknp 2 0xA) := by decide

/-- The premise x ≠ 0xF of ADD, SUB, SUBN, SHR and SHL, at its boundary. -/
theorem witness_flag_destination : (0xE : Nibble) ≠ 0xF ∧ (0 : Nibble) ≠ 0xF := by decide

theorem witness_RandomIsMaskedByTheImmediate : ∃ nn : Byte, nn = 0#8 := ⟨_, rfl⟩

/-- Both clauses: a flag writer, and an instruction whose destination is no VF. -/
theorem witness_FlagRegisterWriters :
    (∃ t x y, exec (.addReg 0xF 1) State.reset = .next t ∧ (Instr.addReg 0xF 1 = .addReg x y)) ∧
    ∃ t, exec (.ldVxMem 0xE) State.reset = .next t ∧ Instr.ldVxMem 0xE ≠ .ldVxMem 0xF :=
  ⟨⟨_, 0xF, 1, rfl, rfl⟩, _, rfl, by decide⟩

/-- A glyph drawn at (0, 0), and drawn again: no collision, then one. -/
theorem witness_CollisionMeansALitCellTurnedOff :
    ((State.reset.drawSprite 64 0 1 5).pixel 0 0 = true ∧
      ((State.reset.drawSprite 64 0 1 5).drawSprite 64 0 1 5).pixel 0 0 = false) ∧
    (State.reset.pixel 0 0 = false ∧ (State.reset.drawSprite 64 0 1 5).reg 0xF = 0#8) := by decide

/-- Glyph 0 on the screen at (0, 0), and VX set to the last column: the next draw there is clipped after one column,
and its clipped pixels would meet lit cells if they came in again at the left. -/
def clipped : State := (State.reset.drawSprite 64 0 1 5).setReg 0 63#8

/-- A cell that changes; a start row below the screen, at its least value 32; a clipped sprite over unlit cells. -/
theorem witness_DrawIsClippedAtTheEdges :
    (State.reset.drawSprite 64 0 1 5).pixel 3 4 ≠ State.reset.pixel 3 4 ∧
    32 ≤ ((State.reset.setReg 1 0x20#8).reg 1).toNat % 64 ∧
    clipped.spriteBit 63 0 5 64 0 = true ∧ clipped.pixel 0 0 = true ∧
    ∀ p q, p < 64 → q < 32 →
      clipped.spriteBit ((clipped.reg 0).toNat % 64) ((clipped.reg 1).toNat % 64) (5 : Nibble).val p q = true →
      clipped.pixel p q = false := by
  refine ⟨by decide, by decide, by decide, by decide, fun p q hp hq h => ?_⟩
  have hx : (clipped.reg 0).toNat % 64 = 63 := by decide
  have hp63 : p = 63 := by
    simp only [State.spriteBit, hx, Bool.and_eq_true, decide_eq_true_eq] at h
    omega
  subst hp63
  have all : ∀ r : Fin 32, clipped.pixel 63 r.val = false := by decide
  exact all ⟨q, hq⟩

theorem witness_DrawingTwiceRestoresTheFramebuffer : ∃ t u w,
    exec (.drw 0 1 5) State.reset = .next t ∧ exec (.addByte 2 1#8) t = .next u ∧ u.i = State.reset.i ∧
    (∀ r, r < (5 : Nibble).val → u.readByte (State.reset.i.toNat + r) = State.reset.readByte (State.reset.i.toNat + r)) ∧
    u.reg 0 = State.reset.reg 0 ∧ u.reg 1 = State.reset.reg 1 ∧ (∀ p q, u.pixel p q = t.pixel p q) ∧
    exec (.drw 0 1 5) u = .next w :=
  ⟨_, _, _, rfl, rfl, rfl, fun _ _ => rfl, by decide, by decide, fun _ _ => rfl, rfl⟩

/-- The two sides of the boundary between row 31 and row 32. -/
theorem witness_DrawYModulusMattersBelowTheScreenOnly :
    ((State.reset.setReg 1 0x1F#8).reg 1).toNat % 64 < 32 ∧
    32 ≤ ((State.reset.setReg 1 0x20#8).reg 1).toNat % 64 := by decide

/-- Both clauses: a least pressed key, and no key. -/
theorem witness_WaitForKeyTakesTheLeastKeyOrRepeats :
    (((State.reset.setKey 7 true).setKey 3 true).key 3 = true ∧
      ∀ j, j < 3 → ((State.reset.setKey 7 true).setKey 3 true).key j = false) ∧
    ∀ k, State.reset.key k = false := by decide

theorem witness_BcdStoreWritesThreeDigits : (State.reset.setIndex 0xFFE#16).mem.wf = true := by decide

/-- The bounds of the block: k = x is in it, k = x + 1 is not. -/
theorem witness_RegisterDumpStoresV0ToVX : State.reset.mem.wf = true ∧ (2 : Nibble) ≤ 2 ∧ (2 : Nibble) < 3 := by decide

theorem witness_DumpThenLoadRestoresRegisters : ∃ t u w, State.reset.mem.wf = true ∧
    exec (.ldMemVx 2) State.reset = .next t ∧ exec (.ldByte 1 9#8) t = .next u ∧ u.i = t.i ∧
    (∀ k : Nat, k ≤ (2 : Nibble).val → u.readByte (t.indexed k) = t.readByte (t.indexed k)) ∧
    exec (.ldVxMem 2) u = .next w :=
  ⟨_, _, _, rfl, rfl, rfl, rfl, fun _ _ => rfl, rfl⟩

theorem witness_HighBitsOfIndexDoNotAddress : (0xF300#16).toNat % 4096 = (State.reset.setIndex 0x300#16).i.toNat % 4096 := by
  decide

theorem witness_CanonicalMemoriesReadingAlikeAreEqual : ∃ m n : Memory, m.wf = true ∧ n.wf = true ∧
    ∀ a, a < 4096 → m.read a = n.read a :=
  ⟨[(0x300, 1#8)], [(0x300, 1#8)], by decide, by decide, fun _ _ => rfl⟩

theorem witness_InstructionsWriteOnlyTheirComponents : ∃ t, exec (.ldB 3) State.reset = .next t := ⟨_, rfl⟩

/-- The premises of each clause. -/
theorem witness_StackIsWrittenByCallAndReadByReturn :
    (∃ t, exec (.jp 0x300#12) State.reset = .next t) ∧ (∀ nnn, Instr.jp 0x300#12 ≠ .call nnn) ∧
    (∀ x y, Instr.jp 0x300#12 ≠ .ret x y) ∧ (0 : Nibble) ≠ State.reset.sp + 1 ∧
    State.reset.pc.toNat < 4096 ∧ (∀ j, (State.reset.stackAt j).toNat < 4096) ∧
    ∃ t, exec (.call 0x300#12) State.reset = .next t :=
  ⟨⟨_, rfl⟩, fun _ h => Instr.noConfusion h, fun _ _ h => Instr.noConfusion h, by decide, by decide, by decide,
    _, rfl⟩

theorem witness_TimersAreReadAndWrittenByTheirLoadsOnly :
    (∃ t, exec (.ldStVx 3) State.reset = .next t) ∧ (∀ x, Instr.ldStVx 3 ≠ .ldDtVx x) ∧
    (∀ x, Instr.ldStVx 3 ≠ .ldVxDt x) ∧ ∀ x, Instr.ldDtVx 3 ≠ .ldStVx x := by
  refine ⟨⟨_, rfl⟩, ?_, ?_, ?_⟩ <;> decide

theorem witness_KeysAreReadByThreeInstructionsOnly :
    (∀ x y, Instr.seReg 1 2 0 ≠ .skp x y ∧ Instr.seReg 1 2 0 ≠ .sknp x y) ∧ ∀ x, Instr.seReg 1 2 0 ≠ .ldVxK x := by
  decide

theorem witness_FramebufferIsReadByDrawOnly :
    (∀ x y, Instr.ldF 3 ≠ .cls x y) ∧ ∀ x y n, Instr.ldF 3 ≠ .drw x y n :=
  ⟨fun _ _ h => Instr.noConfusion h, fun _ _ _ h => Instr.noConfusion h⟩

theorem witness_DrawIsReadByRandomOnly : ∀ x nn, Instr.drw 1 2 3 ≠ .rnd x nn := fun _ _ h => Instr.noConfusion h

/-- Both outcomes of a byte: 3 is stored to and alike in both states, 4 is not stored to and keeps two values. -/
theorem witness_MemoryIsReadByDrawAndLoadOnly : ∃ t u,
    (∀ x y n, Instr.ldMemVx 3 ≠ .drw x y n) ∧ (∀ x, Instr.ldMemVx 3 ≠ .ldVxMem x) ∧
    exec (.ldMemVx 3) State.reset = .next t ∧
    exec (.ldMemVx 3) (State.reset.writeByte 4 7#8) = .next u ∧
    State.reset.mem.wf = true ∧ (State.reset.writeByte 4 7#8).mem.wf = true ∧
    t.readByte 3 = u.readByte 3 ∧ t.readByte 3 ≠ State.reset.readByte 3 ∧ t.readByte 4 ≠ u.readByte 4 :=
  ⟨_, _, fun _ _ _ h => Instr.noConfusion h, fun _ h => Instr.noConfusion h, rfl, rfl, by decide, by decide,
    by decide, by decide, by decide⟩

end Sys2Proof.Machine.Tests
end

section
/-! ## The answer of each instruction

One equation for each arm of `exec`, so that a proof about all instructions names operations of the state and does
not unfold a handler. -/

namespace Sys2Proof.Machine

section
variable (x y n : Nibble) (nn : Byte) (nnn : Addr) (s : State)

@[simp] theorem exec_cls : exec (.cls x y) s = .next (s.setFb Framebuffer.blank) := rfl
@[simp] theorem exec_ret : exec (.ret x y) s = .next ((s.setPc (s.stackAt s.sp)).setSp (s.sp - 1)) := rfl
@[simp] theorem exec_jp : exec (.jp nnn) s = .next (s.setPc (addrOperand nnn)) := rfl
@[simp] theorem exec_call : exec (.call nnn) s =
    .next (((s.setSp (s.sp + 1)).setStackAt (s.sp + 1) s.pc).setPc (addrOperand nnn)) := rfl
@[simp] theorem exec_seByte : exec (.seByte x nn) s = .next (s.skipIf (s.reg x == nn)) := rfl
@[simp] theorem exec_sneByte : exec (.sneByte x nn) s = .next (s.skipIf (s.reg x != nn)) := rfl
@[simp] theorem exec_seReg : exec (.seReg x y n) s = .next (s.skipIf (s.reg x == s.reg y)) := rfl
@[simp] theorem exec_ldByte : exec (.ldByte x nn) s = .next (s.setReg x nn) := rfl
@[simp] theorem exec_addByte : exec (.addByte x nn) s = .next (s.setReg x (s.reg x + nn)) := rfl
@[simp] theorem exec_ldReg : exec (.ldReg x y) s = .next (s.setReg x (s.reg y)) := rfl
@[simp] theorem exec_orReg : exec (.orReg x y) s = .next (s.setReg x (s.reg x ||| s.reg y)) := rfl
@[simp] theorem exec_andReg : exec (.andReg x y) s = .next (s.setReg x (s.reg x &&& s.reg y)) := rfl
@[simp] theorem exec_xorReg : exec (.xorReg x y) s = .next (s.setReg x (s.reg x ^^^ s.reg y)) := rfl
@[simp] theorem exec_addReg : exec (.addReg x y) s =
    .next (s.setRegThenFlag x (s.reg x + s.reg y) (carry (s.reg x) (s.reg y))) := rfl
@[simp] theorem exec_subReg : exec (.subReg x y) s =
    .next (s.setRegThenFlag x (s.reg x - s.reg y) (notBorrow (s.reg x) (s.reg y))) := rfl
@[simp] theorem exec_shr : exec (.shr x y) s =
    .next (s.setRegThenFlag x (s.reg x >>> 1) (shiftedOutRight (s.reg x))) := rfl
@[simp] theorem exec_subnReg : exec (.subnReg x y) s =
    .next (s.setRegThenFlag x (s.reg y - s.reg x) (notBorrow (s.reg y) (s.reg x))) := rfl
@[simp] theorem exec_shl : exec (.shl x y) s =
    .next (s.setRegThenFlag x (s.reg x <<< 1) (shiftedOutLeft (s.reg x))) := rfl
@[simp] theorem exec_sneReg : exec (.sneReg x y n) s = .next (s.skipIf (s.reg x != s.reg y)) := rfl
@[simp] theorem exec_ldI : exec (.ldI nnn) s = .next (s.setIndex (addrOperand nnn)) := rfl
@[simp] theorem exec_jpV0 : exec (.jpV0 nnn) s = .next (s.setPc (addrOperand nnn + s.regWord 0)) := rfl
@[simp] theorem exec_rnd : exec (.rnd x nn) s = .next (s.setReg x (s.rand &&& nn)) := rfl
@[simp] theorem exec_drw : exec (.drw x y n) s = .next (s.drawSprite drawYMod x y n.val) := rfl
@[simp] theorem exec_skp : exec (.skp x y) s = .next (s.skipIf (s.key (s.keyOperand x))) := rfl
@[simp] theorem exec_sknp : exec (.sknp x y) s = .next (s.skipIf (!s.key (s.keyOperand x))) := rfl
@[simp] theorem exec_ldVxDt : exec (.ldVxDt x) s = .next (s.setReg x s.dt) := rfl
@[simp] theorem exec_ldDtVx : exec (.ldDtVx x) s = .next (s.setDt (s.reg x)) := rfl
@[simp] theorem exec_ldStVx : exec (.ldStVx x) s = .next (s.setSt (s.reg x)) := rfl
@[simp] theorem exec_addI : exec (.addI x) s = .next (s.setIndex (s.i + s.regWord x)) := rfl
@[simp] theorem exec_ldF : exec (.ldF x) s = .next (s.setIndex (5#16 * s.regWord x)) := rfl
@[simp] theorem exec_ldB : exec (.ldB x) s =
    .next (s.writeBytes (s.indexed 0) [hundreds (s.reg x), tens (s.reg x), units (s.reg x)]) := rfl
@[simp] theorem exec_ldMemVx : exec (.ldMemVx x) s = .next (s.storeRegs (regsUpTo x)) := rfl
@[simp] theorem exec_ldVxMem : exec (.ldVxMem x) s = .next (s.loadRegs (regsUpTo x)) := rfl

/-- LD Vx, K with a key pressed takes the least one (44_keys_timers.md R213). -/
theorem exec_ldVxK_of_some {k : Nibble} (h : s.firstKey = some k) :
    exec (.ldVxK x) s = .next (s.setReg x (BitVec.ofNat 8 k.val)) := by
  simp only [exec, execLdVxK, h]

/-- LD Vx, K with no key pressed goes back to its own address (44_keys_timers.md R213). -/
theorem exec_ldVxK_of_none (h : s.firstKey = none) : exec (.ldVxK x) s = .next (s.setPc (s.pc - 2#16)) := by
  simp only [exec, execLdVxK, h]

end

@[simp] theorem mapNext_next (f : State → State) (s : State) : mapNext f (.next s) = .next (f s) := rfl

end Sys2Proof.Machine
end

section
/-! ## One component of a state taken from another state

`s.graft c u` is s with component c as in u. Both questions about a component are equations about it: an operation
that neither reads nor writes c commutes with every graft of c, and what does not write c is not changed by a graft
of the old c. -/

namespace Sys2Proof.Machine

/-- s with component c as u has it. -/
def State.graft (s : State) (c : Component) (u : State) : State :=
  match c with
  | .mem => { s with mem := u.mem }
  | .v => { s with v := u.v }
  | .i => { s with i := u.i }
  | .pc => { s with pc := u.pc }
  | .sp => { s with sp := u.sp }
  | .stack => { s with stack := u.stack }
  | .dt => { s with dt := u.dt }
  | .st => { s with st := u.st }
  | .keys => { s with keys := u.keys }
  | .fb => { s with fb := u.fb }
  | .draws => { s with draws := u.draws }

@[simp] theorem State.graft_self (s : State) (c : Component) : s.graft c s = s := by
  cases c <;> rfl

/-- A graft makes the two states agree on the component. -/
theorem State.sameOn_graft (s t : State) (c : Component) : s.sameOn (t.graft c s) c := by
  cases c with
  | mem | v | stack | keys => exact fun _ => rfl
  | fb => exact fun _ _ => rfl
  | i | pc | sp | dt | st | draws => exact rfl

/-! ### What is read after a graft of something else -/

section
variable (s u : State) {c : Component}

@[simp] theorem State.reg_graft (h : c ≠ .v) (x : Nibble) : (s.graft c u).reg x = s.reg x := by
  cases c with
  | v => exact absurd rfl h
  | _ => rfl

@[simp] theorem State.i_graft (h : c ≠ .i) : (s.graft c u).i = s.i := by
  cases c with
  | i => exact absurd rfl h
  | _ => rfl

@[simp] theorem State.pc_graft (h : c ≠ .pc) : (s.graft c u).pc = s.pc := by
  cases c with
  | pc => exact absurd rfl h
  | _ => rfl

@[simp] theorem State.sp_graft (h : c ≠ .sp) : (s.graft c u).sp = s.sp := by
  cases c with
  | sp => exact absurd rfl h
  | _ => rfl

@[simp] theorem State.stackAt_graft (h : c ≠ .stack) (j : Nibble) : (s.graft c u).stackAt j = s.stackAt j := by
  cases c with
  | stack => exact absurd rfl h
  | _ => rfl

@[simp] theorem State.dt_graft (h : c ≠ .dt) : (s.graft c u).dt = s.dt := by
  cases c with
  | dt => exact absurd rfl h
  | _ => rfl

@[simp] theorem State.key_graft (h : c ≠ .keys) (k : Nibble) : (s.graft c u).key k = s.key k := by
  cases c with
  | keys => exact absurd rfl h
  | _ => rfl

@[simp] theorem State.fb_graft (h : c ≠ .fb) : (s.graft c u).fb = s.fb := by
  cases c with
  | fb => exact absurd rfl h
  | _ => rfl

@[simp] theorem State.readByte_graft (h : c ≠ .mem) (a : Nat) : (s.graft c u).readByte a = s.readByte a := by
  cases c with
  | mem => exact absurd rfl h
  | _ => rfl

@[simp] theorem State.rand_graft (h : c ≠ .draws) : (s.graft c u).rand = s.rand := by
  cases c with
  | draws => exact absurd rfl h
  | _ => rfl

@[simp] theorem State.regWord_graft (h : c ≠ .v) (x : Nibble) : (s.graft c u).regWord x = s.regWord x := by
  simp [State.regWord, h]

@[simp] theorem State.keyOperand_graft (h : c ≠ .v) (x : Nibble) :
    (s.graft c u).keyOperand x = s.keyOperand x := by
  simp [State.keyOperand, h]

@[simp] theorem State.firstKey_graft (h : c ≠ .keys) : (s.graft c u).firstKey = s.firstKey := by
  simp [State.firstKey, h]

@[simp] theorem State.indexed_graft (h : c ≠ .i) (k : Nat) : (s.graft c u).indexed k = s.indexed k := by
  simp [State.indexed, h]

@[simp] theorem State.drawRows_graft (hm : c ≠ .mem) (hi : c ≠ .i) (hf : c ≠ .fb) (x0 y0 n : Nat) :
    (s.graft c u).drawRows x0 y0 n = s.drawRows x0 y0 n := by
  simp [State.drawRows, hm, hi, hf]

/-! ### A write, then a graft of something else -/

@[simp] theorem State.setReg_graft (h : c ≠ .v) (x : Nibble) (b : Byte) :
    (s.setReg x b).graft c u = (s.graft c u).setReg x b := by
  cases c with
  | v => exact absurd rfl h
  | _ => rfl

@[simp] theorem State.setIndex_graft (h : c ≠ .i) (a : Word) :
    (s.setIndex a).graft c u = (s.graft c u).setIndex a := by
  cases c with
  | i => exact absurd rfl h
  | _ => rfl

@[simp] theorem State.setPc_graft (h : c ≠ .pc) (a : Word) : (s.setPc a).graft c u = (s.graft c u).setPc a := by
  cases c with
  | pc => exact absurd rfl h
  | _ => rfl

@[simp] theorem State.setSp_graft (h : c ≠ .sp) (p : Nibble) : (s.setSp p).graft c u = (s.graft c u).setSp p := by
  cases c with
  | sp => exact absurd rfl h
  | _ => rfl

@[simp] theorem State.setStackAt_graft (h : c ≠ .stack) (j : Nibble) (a : Word) :
    (s.setStackAt j a).graft c u = (s.graft c u).setStackAt j a := by
  cases c with
  | stack => exact absurd rfl h
  | _ => rfl

@[simp] theorem State.setDt_graft (h : c ≠ .dt) (b : Byte) : (s.setDt b).graft c u = (s.graft c u).setDt b := by
  cases c with
  | dt => exact absurd rfl h
  | _ => rfl

@[simp] theorem State.setSt_graft (h : c ≠ .st) (b : Byte) : (s.setSt b).graft c u = (s.graft c u).setSt b := by
  cases c with
  | st => exact absurd rfl h
  | _ => rfl

@[simp] theorem State.setKey_graft (h : c ≠ .keys) (k : Nibble) (p : Bool) :
    (s.setKey k p).graft c u = (s.graft c u).setKey k p := by
  cases c with
  | keys => exact absurd rfl h
  | _ => rfl

@[simp] theorem State.setFb_graft (h : c ≠ .fb) (fb : Framebuffer) :
    (s.setFb fb).graft c u = (s.graft c u).setFb fb := by
  cases c with
  | fb => exact absurd rfl h
  | _ => rfl

@[simp] theorem State.writeByte_graft (h : c ≠ .mem) (a : Nat) (b : Byte) :
    (s.writeByte a b).graft c u = (s.graft c u).writeByte a b := by
  cases c with
  | mem => exact absurd rfl h
  | _ => rfl

@[simp] theorem State.setFlag_graft (h : c ≠ .v) (f : Bool) : (s.setFlag f).graft c u = (s.graft c u).setFlag f := by
  simp [State.setFlag, h]

@[simp] theorem State.setRegThenFlag_graft (h : c ≠ .v) (x : Nibble) (b : Byte) (f : Bool) :
    (s.setRegThenFlag x b f).graft c u = (s.graft c u).setRegThenFlag x b f := by
  simp [State.setRegThenFlag, h]

@[simp] theorem State.skipIf_graft (h : c ≠ .pc) (p : Bool) : (s.skipIf p).graft c u = (s.graft c u).skipIf p := by
  cases p <;> simp [State.skipIf, h]

@[simp] theorem State.writeBytes_graft (h : c ≠ .mem) (a : Nat) (bs : List Byte) :
    (s.writeBytes a bs).graft c u = (s.graft c u).writeBytes a bs := by
  induction bs generalizing s a with
  | nil => rfl
  | cons b bs ih => simp [State.writeBytes, ih, h]

/-- A dump reads the registers and I besides the memory it writes (45_index_memory.md R234). -/
theorem State.storeRegs_graft (hm : c ≠ .mem) (hv : c ≠ .v) (hi : c ≠ .i) (ks : List Nibble) :
    (s.storeRegs ks).graft c u = (s.graft c u).storeRegs ks := by
  induction ks generalizing s with
  | nil => rfl
  | cons k ks ih => simp [State.storeRegs, ih, hm, hv, hi]

/-- A load reads memory and I besides the registers it writes (45_index_memory.md R235). -/
theorem State.loadRegs_graft (hm : c ≠ .mem) (hv : c ≠ .v) (hi : c ≠ .i) (ks : List Nibble) :
    (s.loadRegs ks).graft c u = (s.graft c u).loadRegs ks := by
  induction ks generalizing s with
  | nil => rfl
  | cons k ks ih => simp [State.loadRegs, ih, hm, hv, hi]

/-- A sprite reads memory, I and two registers besides the screen and VF (43_display.md R191). -/
theorem State.drawSprite_graft (hm : c ≠ .mem) (hv : c ≠ .v) (hi : c ≠ .i) (hf : c ≠ .fb) (yMod : Nat)
    (x y : Nibble) (n : Nat) :
    (s.drawSprite yMod x y n).graft c u = (s.graft c u).drawSprite yMod x y n := by
  simp [State.drawSprite, State.spriteX, State.spriteY, hm, hv, hi, hf]

end

/-! ### What the block operations leave as it was -/

theorem State.storeRegs_graft_self (s : State) {c : Component} (h : c ≠ .mem) (ks : List Nibble) :
    (s.storeRegs ks).graft c s = s.storeRegs ks := by
  rw [State.storeRegs_eq]
  cases c with
  | mem => exact absurd rfl h
  | _ => rfl

theorem State.loadRegs_graft_self (s : State) {c : Component} (h : c ≠ .v) (ks : List Nibble) :
    (s.loadRegs ks).graft c s = s.loadRegs ks := by
  rw [State.loadRegs_eq]
  cases c with
  | v => exact absurd rfl h
  | _ => rfl

theorem State.drawSprite_graft_self (s : State) {c : Component} (hv : c ≠ .v) (hf : c ≠ .fb) (yMod : Nat)
    (x y : Nibble) (n : Nat) : (s.drawSprite yMod x y n).graft c s = s.drawSprite yMod x y n := by
  simp [State.drawSprite, hv, hf]

end Sys2Proof.Machine
end

section
/-! ## What an instruction changes and what it depends on

`writesOf` (the statements' own list) with its counterpart `readsOf`, and the two laws of `exec` about them. -/

namespace Sys2Proof.Machine

/-- The components whose contents the handler of an instruction reads (10_state.md R31, R37 to R43). -/
def readsOf : Instr → List Component
  | .cls _ _ => []
  | .ret _ _ => [.sp, .stack]
  | .jp _ => []
  | .call _ => [.pc, .sp]
  | .seByte _ _ => [.v, .pc]
  | .sneByte _ _ => [.v, .pc]
  | .seReg _ _ _ => [.v, .pc]
  | .ldByte _ _ => []
  | .addByte _ _ => [.v]
  | .ldReg _ _ => [.v]
  | .orReg _ _ => [.v]
  | .andReg _ _ => [.v]
  | .xorReg _ _ => [.v]
  | .addReg _ _ => [.v]
  | .subReg _ _ => [.v]
  | .shr _ _ => [.v]
  | .subnReg _ _ => [.v]
  | .shl _ _ => [.v]
  | .sneReg _ _ _ => [.v, .pc]
  | .ldI _ => []
  | .jpV0 _ => [.v]
  | .rnd _ _ => [.draws]
  | .drw _ _ _ => [.mem, .v, .i, .fb]
  | .skp _ _ => [.v, .pc, .keys]
  | .sknp _ _ => [.v, .pc, .keys]
  | .ldVxDt _ => [.dt]
  | .ldVxK _ => [.pc, .keys]
  | .ldDtVx _ => [.v]
  | .ldStVx _ => [.v]
  | .addI _ => [.v, .i]
  | .ldF _ => [.v]
  | .ldB _ => [.v, .i]
  | .ldMemVx _ => [.v, .i]
  | .ldVxMem _ => [.mem, .i]

/-- The frame law: putting back the old contents of a component the instruction does not write changes nothing. -/
theorem exec_graft_self (i : Instr) (s : State) {c : Component} (hw : c ∉ writesOf i) :
    mapNext (fun t => t.graft c s) (exec i s) = exec i s := by
  cases i <;> simp only [writesOf, List.mem_cons, List.not_mem_nil, or_false, not_or] at hw
  case ldVxK x =>
    cases hk : s.firstKey with
    | none => simp [exec_ldVxK_of_none x s hk, hw]
    | some k => simp [exec_ldVxK_of_some x s hk, hw]
  case drw => simp [State.drawSprite_graft_self, hw]
  case ldMemVx => simp [State.storeRegs_graft_self, hw]
  case ldVxMem => simp [State.loadRegs_graft_self, hw]
  all_goals simp [hw]

/-- The noninterference law: other contents of a component the instruction neither reads nor writes are still there
in the answer, which is else the same. -/
theorem exec_graft (i : Instr) (s u : State) {c : Component} (hr : c ∉ readsOf i) (hw : c ∉ writesOf i) :
    exec i (s.graft c u) = mapNext (fun t => t.graft c u) (exec i s) := by
  cases i <;>
    simp only [readsOf, writesOf, List.mem_cons, List.not_mem_nil, or_false, not_or, not_false_eq_true] at hr hw
  case ldVxK x =>
    have hk' : (s.graft c u).firstKey = s.firstKey := State.firstKey_graft s u hr.2
    cases hk : s.firstKey with
    | none => simp [exec_ldVxK_of_none x s hk, exec_ldVxK_of_none x _ (hk'.trans hk), hr]
    | some k => simp [exec_ldVxK_of_some x s hk, exec_ldVxK_of_some x _ (hk'.trans hk), hw]
  case drw => simp [State.drawSprite_graft, hr]
  case ldMemVx => simp [State.storeRegs_graft, hr, hw]
  case ldVxMem => simp [State.loadRegs_graft, hr, hw]
  all_goals simp [hr, hw]

/-- A component the instruction does not write is in the next state as it was. -/
theorem graft_of_exec_eq_next {i : Instr} {s t : State} {c : Component} (hw : c ∉ writesOf i)
    (h : exec i s = .next t) : t.graft c s = t := by
  have hf := exec_graft_self i s hw
  rw [h] at hf
  exact Host.Outcome.next.inj hf

/-- Settles O53, from the frame law and the agreement a graft makes. -/
theorem instructionsWriteOnlyTheirComponents : Obligations.InstructionsWriteOnlyTheirComponents := by
  intro i s t h c hw
  rw [← graft_of_exec_eq_next hw h]
  exact State.sameOn_graft s t c

/-! ### The writers and readers of single components -/

theorem exec_mem_eq {i : Instr} {s t : State} (hw : .mem ∉ writesOf i) (h : exec i s = .next t) : t.mem = s.mem := by
  rw [← graft_of_exec_eq_next hw h]; rfl

theorem exec_pc_eq {i : Instr} {s t : State} (hw : .pc ∉ writesOf i) (h : exec i s = .next t) : t.pc = s.pc := by
  rw [← graft_of_exec_eq_next hw h]; rfl

theorem exec_stack_eq {i : Instr} {s t : State} (hw : .stack ∉ writesOf i) (h : exec i s = .next t) :
    t.stack = s.stack := by
  rw [← graft_of_exec_eq_next hw h]; rfl

theorem mem_mem_writesOf {i : Instr} (h : .mem ∈ writesOf i) : (∃ x, i = .ldB x) ∨ ∃ x, i = .ldMemVx x := by
  cases i <;> simp [writesOf] at h ⊢

theorem stack_mem_writesOf {i : Instr} (h : .stack ∈ writesOf i) : ∃ nnn, i = .call nnn := by
  cases i <;> simp [writesOf] at h ⊢

theorem stack_mem_readsOf {i : Instr} (h : .stack ∈ readsOf i) : ∃ x y, i = .ret x y := by
  cases i <;> simp [readsOf] at h ⊢

theorem dt_mem_writesOf {i : Instr} (h : .dt ∈ writesOf i) : ∃ x, i = .ldDtVx x := by
  cases i <;> simp [writesOf] at h ⊢

theorem dt_mem_readsOf {i : Instr} (h : .dt ∈ readsOf i) : ∃ x, i = .ldVxDt x := by
  cases i <;> simp [readsOf] at h ⊢

theorem st_mem_writesOf {i : Instr} (h : .st ∈ writesOf i) : ∃ x, i = .ldStVx x := by
  cases i <;> simp [writesOf] at h ⊢

theorem st_not_mem_readsOf (i : Instr) : .st ∉ readsOf i := by
  cases i <;> simp [readsOf]

theorem keys_not_mem_writesOf (i : Instr) : .keys ∉ writesOf i := by
  cases i <;> simp [writesOf]

theorem keys_mem_readsOf {i : Instr} (h : .keys ∈ readsOf i) :
    (∃ x y, i = .skp x y ∨ i = .sknp x y) ∨ ∃ x, i = .ldVxK x := by
  cases i <;> simp [readsOf] at h ⊢

theorem fb_mem_writesOf {i : Instr} (h : .fb ∈ writesOf i) : (∃ x y, i = .cls x y) ∨ ∃ x y n, i = .drw x y n := by
  cases i <;> simp [writesOf] at h ⊢

theorem fb_mem_readsOf {i : Instr} (h : .fb ∈ readsOf i) : ∃ x y n, i = .drw x y n := by
  cases i <;> simp [readsOf] at h ⊢

end Sys2Proof.Machine
end

section
/-! ## The invariant and the cycle -/

namespace Sys2Proof.Machine

theorem finishCycle_eq_next {r : Result} {t : State} (h : finishCycle r = .next t) :
    ∃ u, r = .next u ∧ t = u.endCycle := by
  cases r with
  | next u => exact ⟨u, rfl, (Host.Outcome.next.inj h).symm⟩
  | fault f => cases h
  | refused r => cases h

/-- What a cycle can do: the handler of the word at pc, or nothing for an unregistered word, at the advanced pc, and
then the end of the cycle (40_cycle_engine.md R120, R124). -/
theorem step_eq_next {s t : State} (h : step s = .next t) : ∃ u, t = u.endCycle ∧
    ((∃ i, s.fetchInstr = .ok i ∧ exec i s.advance = .next u) ∨ (∃ r, s.fetchInstr = .error r ∧ u = s.advance)) := by
  unfold step at h
  cases hf : s.fetchInstr with
  | ok i =>
    obtain ⟨u, hu, ht⟩ := finishCycle_eq_next (by simpa only [hf] using h)
    exact ⟨u, ht, .inl ⟨i, rfl, hu⟩⟩
  | error r =>
    obtain ⟨u, hu, ht⟩ := finishCycle_eq_next (by simpa only [hf] using h)
    exact ⟨u, ht, .inr ⟨r, rfl, (Host.Outcome.next.inj hu).symm⟩⟩

theorem State.Inv.advance {s : State} (h : s.Inv) : s.advance.Inv :=
  ⟨h.1, State.setPc_pc_lt s _, h.2.2⟩

theorem State.Inv.endCycle {s : State} (h : s.Inv) : s.endCycle.Inv := h

/-- Only LD B and LD [I], Vx write memory, and their stores keep its canonical form. -/
theorem exec_mem_wf {i : Instr} {s t : State} (hm : s.mem.wf = true) (h : exec i s = .next t) :
    t.mem.wf = true := by
  by_cases hw : .mem ∈ writesOf i
  · rcases mem_mem_writesOf hw with ⟨x, rfl⟩ | ⟨x, rfl⟩
    · cases h
      exact State.wf_writeBytes _ s _ hm
    · cases h
      exact State.wf_storeRegs _ s hm
  · rw [exec_mem_eq hw h]
    exact hm

theorem State.skipIf_pc_lt {s : State} (h : s.pc.toNat < 4096) (p : Bool) : (s.skipIf p).pc.toNat < 4096 := by
  cases p with
  | false => exact h
  | true => exact State.setPc_pc_lt s _

/-- An instruction keeps pc or writes it through `setPc`, which reduces it (10_state.md R33). -/
theorem exec_pc_lt {i : Instr} {s t : State} (hpc : s.pc.toNat < 4096) (h : exec i s = .next t) :
    t.pc.toNat < 4096 := by
  cases i
  case ret | jp | call | jpV0 =>
    cases h
    exact State.setPc_pc_lt s _
  case seByte | sneByte | seReg | sneReg | skp | sknp =>
    cases h
    exact State.skipIf_pc_lt hpc _
  case ldVxK x =>
    cases hk : s.firstKey with
    | none =>
      cases (exec_ldVxK_of_none x s hk).symm.trans h
      exact State.setPc_pc_lt s _
    | some k =>
      cases (exec_ldVxK_of_some x s hk).symm.trans h
      exact hpc
  all_goals
    rw [exec_pc_eq (by simp [writesOf]) h]
    exact hpc

/-- Every instruction but CALL keeps the stack, and CALL pushes pc (10_state.md R38). -/
theorem exec_stackAt_lt {i : Instr} {s t : State} (hpc : s.pc.toNat < 4096)
    (hst : ∀ j, (s.stackAt j).toNat < 4096) (h : exec i s = .next t) (j : Nibble) : (t.stackAt j).toNat < 4096 := by
  by_cases hw : .stack ∈ writesOf i
  · obtain ⟨nnn, rfl⟩ := stack_mem_writesOf hw
    cases h
    by_cases hj : j = s.sp + 1
    · simpa [hj] using hpc
    · simpa [State.stackAt_setStackAt_ne _ _ _ _ hj] using hst j
  · simpa only [State.stackAt, exec_stack_eq hw h] using hst j

theorem exec_inv {i : Instr} {s t : State} (hs : s.Inv) (h : exec i s = .next t) : t.Inv := by
  obtain ⟨hm, hpc, hst⟩ := hs
  exact ⟨exec_mem_wf hm h, exec_pc_lt hpc h, exec_stackAt_lt hpc hst h⟩

/-- Settles O16: the advance, the handler and the end of a cycle each keep the invariant. -/
theorem cycleKeepsInvariant : Obligations.CycleKeepsInvariant := by
  intro s t hs h
  obtain ⟨u, rfl, ⟨i, -, hu⟩ | ⟨r, -, rfl⟩⟩ := step_eq_next h
  · exact (exec_inv hs.advance hu).endCycle
  · exact hs.advance.endCycle

/-- Settles O15, by evaluation at the reset state. -/
theorem constructionMeetsInvariant : Obligations.ConstructionMeetsInvariant :=
  ⟨Memory.wf_nil, by decide, by decide⟩

/-! ### The state at construction -/

theorem initialByte_of_le {a : Nat} (h : 80 ≤ a) : initialByte a = 0#8 :=
  List.getD_eq_default _ _ h

/-- The memory at construction lists no cell, so a byte reads as the font or zero has it. -/
theorem readByte_reset {a : Nat} (h : a < 4096) : State.reset.readByte a = initialByte a :=
  congrArg initialByte (Nat.mod_eq_of_lt h)

/-- Settles O14, field by field; the glyphs are compared byte by byte. -/
theorem constructionState : Obligations.ConstructionState := by
  refine ⟨rfl, rfl, rfl, rfl, rfl, by decide, by decide, by decide, Framebuffer.get_blank, by decide, ?_⟩
  intro a hlo hhi
  rw [readByte_reset hhi, initialByte_of_le hlo]

end Sys2Proof.Machine
end

section
/-! ## The writers and readers of keys, screen, timers and stack -/

namespace Sys2Proof.Machine

/-- No instruction writes the key latch, and the rest of a cycle leaves it alone (10_state.md R42). -/
theorem step_keys_eq {s t : State} (h : step s = .next t) : t.keys = s.keys := by
  obtain ⟨u, rfl, ⟨i, -, hu⟩ | ⟨r, -, rfl⟩⟩ := step_eq_next h
  · have hf := graft_of_exec_eq_next (keys_not_mem_writesOf i) hu
    exact (congrArg State.keys hf).symm
  · rfl

theorem State.sameBut_setKey (s : State) (k : Nibble) (p : Bool) : s.sameBut (s.setKey k p) [.keys] := by
  intro c hc
  have hk : c ≠ .keys := by simpa using hc
  have hg : (s.setKey k p).graft c s = s.setKey k p := by simp [hk]
  rw [← hg]
  exact State.sameOn_graft s _ c

/-- Settles O20. -/
theorem keysAreSetByTheEnvironmentOnly : Obligations.KeysAreSetByTheEnvironmentOnly := by
  refine ⟨fun s k p => ⟨State.key_setKey_same s k p, fun j => State.key_setKey_ne s k j p, ?_⟩, ?_⟩
  · exact State.sameBut_setKey s k p
  · intro s t h k
    simp only [State.key, step_keys_eq h]

/-- Settles O56: an instruction that is none of the three does not read the keys, and none writes them. -/
theorem keysAreReadByThreeInstructionsOnly : Obligations.KeysAreReadByThreeInstructionsOnly := by
  intro i s ks hskip hwait
  have hr : .keys ∉ readsOf i := by
    intro h
    rcases keys_mem_readsOf h with ⟨x, y, h | h⟩ | ⟨x, h⟩
    · exact (hskip x y).1 h
    · exact (hskip x y).2 h
    · exact hwait x h
  exact exec_graft i s { s with keys := ks } hr (keys_not_mem_writesOf i)

/-- Settles O57: an instruction that is neither CLS nor DRW does not touch the screen; CLS does not read it. -/
theorem framebufferIsReadByDrawOnly : Obligations.FramebufferIsReadByDrawOnly := by
  refine fun i s fb => ⟨fun hcls hdrw => ?_, fun x y hi => ?_⟩
  · have hr : .fb ∉ readsOf i := fun h => let ⟨x, y, n, h⟩ := fb_mem_readsOf h; hdrw x y n h
    have hw : .fb ∉ writesOf i := by
      intro h
      rcases fb_mem_writesOf h with ⟨x, y, h⟩ | ⟨x, y, n, h⟩
      · exact hcls x y h
      · exact hdrw x y n h
    exact exec_graft i s (s.setFb fb) hr hw
  · subst hi
    rfl

/-- Settles O55: the frame law for the writers, the noninterference law for the readers; LD DT, Vx and LD ST, Vx
overwrite their timer. -/
theorem timersAreReadAndWrittenByTheirLoadsOnly : Obligations.TimersAreReadAndWrittenByTheirLoadsOnly := by
  intro i s b
  have hdw (hi : ∀ x, i ≠ .ldDtVx x) : .dt ∉ writesOf i := fun h => let ⟨x, h⟩ := dt_mem_writesOf h; hi x h
  have hdr (hi : ∀ x, i ≠ .ldVxDt x) : .dt ∉ readsOf i := fun h => let ⟨x, h⟩ := dt_mem_readsOf h; hi x h
  have hsw (hi : ∀ x, i ≠ .ldStVx x) : .st ∉ writesOf i := fun h => let ⟨x, h⟩ := st_mem_writesOf h; hi x h
  refine ⟨fun t h => ⟨fun hi => ?_, fun hi => ?_⟩, fun hw hr => ?_, fun x hi => ?_, fun hw => ?_, fun x hi => ?_⟩
  · exact instructionsWriteOnlyTheirComponents i s t h .dt (hdw hi)
  · exact instructionsWriteOnlyTheirComponents i s t h .st (hsw hi)
  · exact exec_graft i s (s.setDt b) (hdr hr) (hdw hw)
  · subst hi
    rfl
  · exact exec_graft i s (s.setSt b) (st_not_mem_readsOf i) (hsw hw)
  · subst hi
    rfl

/-! ### The stack -/

theorem State.setStackAt_comm (s : State) {j k : Nibble} (h : j ≠ k) (a b : Word) :
    (s.setStackAt j a).setStackAt k b = (s.setStackAt k b).setStackAt j a := by
  have hv : j.val ≠ k.val := fun e => h (Fin.ext e)
  simp [State.setStackAt, Vector.set_comm _ _ hv]

@[simp] theorem State.setStackAt_setStackAt (s : State) (j : Nibble) (a b : Word) :
    (s.setStackAt j a).setStackAt j b = s.setStackAt j b := by
  simp [State.setStackAt]

/-- An instruction that is neither CALL nor RET carries the change of an entry through. -/
theorem exec_setStackAt {i : Instr} (hr : .stack ∉ readsOf i) (hw : .stack ∉ writesOf i) (s : State) (j : Nibble)
    (a : Word) : exec i (s.setStackAt j a) = mapNext (fun t => t.setStackAt j a) (exec i s) := by
  have hg : exec i (s.setStackAt j a) = mapNext (fun t => t.graft .stack (s.setStackAt j a)) (exec i s) :=
    exec_graft i s (s.setStackAt j a) hr hw
  rw [hg]
  cases h : exec i s with
  | next t =>
    have ht : t.stack = s.stack := exec_stack_eq hw h
    simp [State.graft, State.setStackAt, ht]
  | fault f => rfl
  | refused r => rfl

/-- CALL keeps a change of an entry other than the one it writes (10_state.md R38). -/
theorem exec_call_setStackAt_ne (nnn : Addr) (s : State) {j : Nibble} (a : Word) (h : j ≠ s.sp + 1) :
    exec (.call nnn) (s.setStackAt j a) = mapNext (fun t => t.setStackAt j a) (exec (.call nnn) s) := by
  have hc := State.setStackAt_comm (s.setSp (s.sp + 1)) h a s.pc
  exact congrArg (fun u => Host.Outcome.next (State.setPc u (addrOperand nnn))) hc

/-- CALL overwrites the entry at SP + 1 (90_conflicts.md C3). -/
theorem exec_call_setStackAt_same (nnn : Addr) (s : State) (a : Word) :
    exec (.call nnn) (s.setStackAt (s.sp + 1) a) = exec (.call nnn) s := by
  have hc := State.setStackAt_setStackAt (s.setSp (s.sp + 1)) (s.sp + 1) a s.pc
  exact congrArg (fun u => Host.Outcome.next (State.setPc u (addrOperand nnn))) hc

/-- Settles O54. -/
theorem stackIsWrittenByCallAndReadByReturn : Obligations.StackIsWrittenByCallAndReadByReturn := by
  have hw {i : Instr} (hi : ∀ nnn, i ≠ .call nnn) : .stack ∉ writesOf i := fun h =>
    let ⟨nnn, h⟩ := stack_mem_writesOf h; hi nnn h
  have hr {i : Instr} (hi : ∀ x y, i ≠ .ret x y) : .stack ∉ readsOf i := fun h =>
    let ⟨x, y, h⟩ := stack_mem_readsOf h; hi x y h
  refine ⟨?_, ?_, ?_, exec_call_setStackAt_same, ?_⟩
  · exact fun i s t h hi => instructionsWriteOnlyTheirComponents i s t h .stack (hw hi)
  · exact fun i s j a hret hcall => exec_setStackAt (hr hret) (hw hcall) s j a
  · exact fun nnn s j a h => exec_call_setStackAt_ne nnn s a h
  · exact fun i s t hpc hst h => exec_stackAt_lt hpc hst h

end Sys2Proof.Machine
end

section
/-! ## The flag register -/

namespace Sys2Proof.Machine

theorem flagByte_eq_or (f : Bool) : flagByte f = 0#8 ∨ flagByte f = 1#8 := by
  cases f
  · exact .inl rfl
  · exact .inr rfl

/-- A flag writer leaves its flag in VF, whatever its destination (10_state.md R32). -/
theorem State.reg_setFlag_flagReg (s : State) (f : Bool) :
    (s.setFlag f).reg 0xF = 0#8 ∨ (s.setFlag f).reg 0xF = 1#8 := by
  rw [show (s.setFlag f).reg 0xF = flagByte f from State.reg_setReg_same s flagReg _]
  exact flagByte_eq_or f

/-- The V registers the handler of an instruction may change (10_state.md R31, R32). -/
def destsOf : Instr → List Nibble
  | .ldByte x _ | .addByte x _ | .rnd x _ => [x]
  | .ldReg x _ | .orReg x _ | .andReg x _ | .xorReg x _ => [x]
  | .addReg x _ | .subReg x _ | .subnReg x _ | .shr x _ | .shl x _ => [x, flagReg]
  | .drw _ _ _ => [flagReg]
  | .ldVxDt x | .ldVxK x => [x]
  | .ldVxMem x => regsUpTo x
  | _ => []

theorem State.regsSameBut_setReg (s : State) (x : Nibble) (b : Byte) : s.regsSameBut (s.setReg x b) [x] :=
  fun k hk => State.reg_setReg_ne s x k b (by simpa using hk)

theorem State.regsSameBut_setRegThenFlag (s : State) (x : Nibble) (b : Byte) (f : Bool) :
    s.regsSameBut (s.setRegThenFlag x b f) [x, flagReg] := by
  intro k hk
  obtain ⟨hx, hf⟩ : k ≠ x ∧ k ≠ flagReg := by simpa using hk
  rw [State.reg_setRegThenFlag, if_neg hf, if_neg hx]

theorem State.regsSameBut_loadRegs (s : State) (ks : List Nibble) : s.regsSameBut (s.loadRegs ks) ks :=
  fun k hk => (State.reg_loadRegs ks s k).trans (if_neg hk)

/-- Every instruction keeps the registers that are none of its destinations. -/
theorem exec_regsSameBut {i : Instr} {s t : State} (h : exec i s = .next t) : s.regsSameBut t (destsOf i) := by
  cases i
  case ldByte | addByte | rnd | ldReg | orReg | andReg | xorReg | ldVxDt =>
    cases h
    exact State.regsSameBut_setReg s _ _
  case addReg | subReg | subnReg | shr | shl =>
    cases h
    exact State.regsSameBut_setRegThenFlag s _ _ _
  case drw =>
    cases h
    exact State.regsSameBut_setReg (s.setFb _) flagReg _
  case ldVxK x =>
    cases hk : s.firstKey with
    | none =>
      cases (exec_ldVxK_of_none x s hk).symm.trans h
      exact fun _ _ => rfl
    | some k =>
      cases (exec_ldVxK_of_some x s hk).symm.trans h
      exact State.regsSameBut_setReg s x _
  case ldVxMem =>
    cases h
    exact State.regsSameBut_loadRegs s _
  all_goals exact fun k _ => instructionsWriteOnlyTheirComponents _ s t h .v (by simp [writesOf]) k

/-- The instructions that may change VF: the six flag writers, and those with VF among their destinations. -/
theorem flagReg_mem_destsOf {i : Instr} (h : flagReg ∈ destsOf i) :
    (∃ x y, i = .addReg x y ∨ i = .subReg x y ∨ i = .subnReg x y ∨ i = .shr x y ∨ i = .shl x y ∨
      ∃ n, i = .drw x y n) ∨
    (∃ nn, i = .ldByte flagReg nn ∨ i = .addByte flagReg nn ∨ i = .rnd flagReg nn) ∨
    (∃ y, i = .ldReg flagReg y ∨ i = .orReg flagReg y ∨ i = .andReg flagReg y ∨ i = .xorReg flagReg y) ∨
    i = .ldVxDt flagReg ∨ i = .ldVxK flagReg ∨ i = .ldVxMem flagReg := by
  cases i
  case ldVxMem x =>
    have hx : x = flagReg := Fin.last_le_iff.mp ((mem_regsUpTo x _).mp h)
    simp [hx]
  all_goals simp_all [destsOf]

/-- Settles O35: a flag writer ends with a write of its flag, and VF is else a destination the statement names. -/
theorem flagRegisterWriters : Obligations.FlagRegisterWriters := by
  intro i s t h
  constructor
  · rintro ⟨x, y, rfl | rfl | rfl | rfl | rfl | ⟨n, rfl⟩⟩ <;> cases h <;> exact State.reg_setFlag_flagReg _ _
  · intro hflag himm hreg hdt hkey hload
    refine exec_regsSameBut h flagReg fun hd => ?_
    rcases flagReg_mem_destsOf hd with hi | ⟨nn, hi⟩ | ⟨y, hi⟩ | hi | hi | hi
    · exact hflag hi
    · obtain ⟨h1, h2, h3⟩ := himm nn
      exact hi.elim h1 fun hi => hi.elim h2 h3
    · obtain ⟨h1, h2, h3, h4⟩ := hreg y
      exact hi.elim h1 fun hi => hi.elim h2 fun hi => hi.elim h3 h4
    · exact hdt hi
    · exact hkey hi
    · exact hload hi

end Sys2Proof.Machine
end

section
/-! ## The index register addresses memory modulo 4096 -/

namespace Sys2Proof.Machine

theorem State.readByte_congr (s : State) {a b : Nat} (h : a ≡ b [MOD memSize]) : s.readByte a = s.readByte b :=
  congrArg s.mem.read h

theorem State.writeByte_congr (s : State) {a b : Nat} (h : a ≡ b [MOD memSize]) (c : Byte) :
    s.writeByte a c = s.writeByte b c := by
  have h' : a % memSize = b % memSize := h
  simp only [State.writeByte, h']

theorem State.writeBytes_congr (bs : List Byte) (s : State) {a b : Nat} (h : a ≡ b [MOD memSize]) :
    s.writeBytes a bs = s.writeBytes b bs := by
  induction bs generalizing s a b with
  | nil => rfl
  | cons c bs ih =>
    simp only [State.writeBytes]
    rw [State.writeByte_congr s h, ih _ (h.add_right 1)]

section
variable {s : State} {a : Word} (h : a.toNat ≡ s.i.toNat [MOD memSize])
include h

/-- The address at each offset from the replaced index is the old one modulo 4096. -/
theorem State.indexed_modEq (k : Nat) : (s.setIndex a).indexed k ≡ s.indexed k [MOD memSize] :=
  h.add_right k

theorem State.writeBytes_setIndex (bs : List Byte) :
    (s.setIndex a).writeBytes ((s.setIndex a).indexed 0) bs = (s.writeBytes (s.indexed 0) bs).setIndex a := by
  rw [State.writeBytes_congr bs _ (State.indexed_modEq h 0)]
  exact (State.writeBytes_graft s (s.setIndex a) (c := .i) (by decide) (s.indexed 0) bs).symm

theorem State.storeRegs_setIndex (ks : List Nibble) :
    (s.setIndex a).storeRegs ks = (s.storeRegs ks).setIndex a := by
  induction ks generalizing s with
  | nil => rfl
  | cons k ks ih =>
    simp only [State.storeRegs]
    rw [State.writeByte_congr _ (State.indexed_modEq h k.val)]
    exact ih (s := s.writeByte (s.indexed k.val) (s.reg k)) h

theorem State.loadRegs_setIndex (ks : List Nibble) :
    (s.setIndex a).loadRegs ks = (s.loadRegs ks).setIndex a := by
  induction ks generalizing s with
  | nil => rfl
  | cons k ks ih =>
    simp only [State.loadRegs]
    rw [State.readByte_congr _ (State.indexed_modEq h k.val)]
    exact ih (s := s.setReg k (s.readByte (s.indexed k.val))) h

theorem State.drawRows_setIndex (x0 y0 n : Nat) : (s.setIndex a).drawRows x0 y0 n = s.drawRows x0 y0 n := by
  induction n with
  | zero => rfl
  | succ n ih =>
    rw [State.drawRows_succ, State.drawRows_succ, ih, State.readByte_congr _ (State.indexed_modEq h n)]
    rfl

end

/-- Settles O51: each access through the replaced index meets the byte it met before. -/
theorem highBitsOfIndexDoNotAddress : Obligations.HighBitsOfIndexDoNotAddress := by
  intro s a h x y n
  refine ⟨?_, ?_, ?_, ?_⟩
  · have hd := State.drawRows_setIndex h (s.spriteX x) (s.spriteY drawYMod y) n.val
    exact congrArg (fun c : Canvas => Host.Outcome.next (((s.setIndex a).setFb c.fb).setFlag c.collision)) hd
  · exact congrArg Host.Outcome.next (State.writeBytes_setIndex h _)
  · exact congrArg Host.Outcome.next (State.storeRegs_setIndex h _)
  · exact congrArg Host.Outcome.next (State.loadRegs_setIndex h _)

end Sys2Proof.Machine
end

section
/-! ## Memory: its canonical form, and who reads it -/

namespace Sys2Proof.Machine

theorem Memory.wfFrom_cons_iff {lo k : Nat} {b : Byte} {m : Memory} : Memory.wfFrom lo ((k, b) :: m) = true ↔
    lo ≤ k ∧ k < memSize ∧ b ≠ initialByte k ∧ Memory.wfFrom (k + 1) m = true := by
  simp only [Memory.wfFrom, Bool.and_eq_true, decide_eq_true_eq, and_assoc]

@[simp] theorem Memory.read_head (k : Nat) (b : Byte) (m : Memory) : Memory.read ((k, b) :: m) k = b := if_pos rfl

theorem Memory.read_tail {k a : Nat} (b : Byte) (m : Memory) (h : k ≠ a) :
    Memory.read ((k, b) :: m) a = m.read a := if_neg h

/-- The first listed cell differs from its contents at construction, so no canonical list that begins above it reads
the same there. -/
theorem Memory.not_wfFrom_succ_of_read_eq {lo k : Nat} {b : Byte} {m n : Memory}
    (hm : Memory.wfFrom lo ((k, b) :: m) = true) (h : n.read k = b) : ¬ n.wfFrom (k + 1) = true := by
  obtain ⟨-, -, hb, -⟩ := Memory.wfFrom_cons_iff.mp hm
  intro hn
  exact hb (h.symm.trans (Memory.read_of_wfFrom_lt n (k + 1) k hn (Nat.lt_succ_self k)))

/-- Two canonical lists that read alike at the least address of the first: the second begins no higher. -/
theorem Memory.head_le_of_read_eq {lo lo' k l : Nat} {b c : Byte} {m n : Memory}
    (hm : Memory.wfFrom lo ((k, b) :: m) = true) (hn : Memory.wfFrom lo' ((l, c) :: n) = true)
    (h : Memory.read ((l, c) :: n) k = b) : l ≤ k := by
  obtain ⟨-, hl, hc, hn'⟩ := Memory.wfFrom_cons_iff.mp hn
  by_contra hlk
  exact Memory.not_wfFrom_succ_of_read_eq hm h (Memory.wfFrom_cons_iff.mpr ⟨by omega, hl, hc, hn'⟩)

/-- Behind a common first cell, two canonical lists that read alike still do: at that cell and below it both read as
unlisted, and above it the first cell is not what is read. -/
theorem Memory.read_tail_eq {k a : Nat} {b : Byte} {m n : Memory} (hm : m.wfFrom (k + 1) = true)
    (hn : n.wfFrom (k + 1) = true) (h : Memory.read ((k, b) :: m) a = Memory.read ((k, b) :: n) a) :
    m.read a = n.read a := by
  by_cases ha : k = a
  · subst ha
    rw [Memory.read_of_wfFrom_lt m (k + 1) k hm (Nat.lt_succ_self k),
      Memory.read_of_wfFrom_lt n (k + 1) k hn (Nat.lt_succ_self k)]
  · rwa [Memory.read_tail b m ha, Memory.read_tail b n ha] at h

/-- Canonical lists that read alike begin with the same cell, and their tails read alike again. -/
theorem Memory.eq_of_wfFrom_of_read_eq {m n : Memory} {lo : Nat} (hm : m.wfFrom lo = true) (hn : n.wfFrom lo = true)
    (h : ∀ a, a < memSize → m.read a = n.read a) : m = n := by
  induction m generalizing n lo with
  | nil =>
    cases n with
    | nil => rfl
    | cons cell n =>
      obtain ⟨l, c⟩ := cell
      obtain ⟨-, hl, -, -⟩ := Memory.wfFrom_cons_iff.mp hn
      have hc : Memory.read [] l = c := by simpa using h l hl
      exact absurd rfl (Memory.not_wfFrom_succ_of_read_eq hn hc)
  | cons cell m ih =>
    obtain ⟨k, b⟩ := cell
    obtain ⟨-, hk, -, hm'⟩ := Memory.wfFrom_cons_iff.mp hm
    have hb : n.read k = b := by simpa using (h k hk).symm
    cases n with
    | nil => exact absurd rfl (Memory.not_wfFrom_succ_of_read_eq hm hb)
    | cons cell n =>
      obtain ⟨l, c⟩ := cell
      obtain ⟨-, hl, -, hn'⟩ := Memory.wfFrom_cons_iff.mp hn
      have hc : Memory.read ((k, b) :: m) l = c := by simpa using h l hl
      obtain rfl : k = l := le_antisymm (Memory.head_le_of_read_eq hn hm hc) (Memory.head_le_of_read_eq hm hn hb)
      obtain rfl : b = c := by simpa using hc
      rw [ih hm' hn' fun a ha => Memory.read_tail_eq hm' hn' (h a ha)]

/-- Settles O52: the canonical form from address 0. -/
theorem canonicalMemoriesReadingAlikeAreEqual : Obligations.CanonicalMemoriesReadingAlikeAreEqual :=
  fun _ _ hm hn h => Memory.eq_of_wfFrom_of_read_eq hm hn h

theorem mem_mem_readsOf {i : Instr} (h : .mem ∈ readsOf i) : (∃ x y n, i = .drw x y n) ∨ ∃ x, i = .ldVxMem x := by
  cases i <;> simp [readsOf] at h ⊢

/-- An instruction that neither reads nor writes memory carries another memory through. -/
theorem exec_withMem {i : Instr} {s t : State} (hr : .mem ∉ readsOf i) (hw : .mem ∉ writesOf i)
    (h : exec i s = .next t) (m : Memory) : exec i { s with mem := m } = .next { t with mem := m } := by
  have hg : exec i { s with mem := m } = mapNext (fun t => t.graft .mem { s with mem := m }) (exec i s) :=
    exec_graft i s { s with mem := m } hr hw
  rw [hg, h]
  rfl

/-- Settles O59: LD B and LD [I], Vx store alike in both memories; the other instructions leave each memory as it
was. -/
theorem memoryIsReadByDrawAndLoadOnly : Obligations.MemoryIsReadByDrawAndLoadOnly := by
  intro i s t u m hdrw hload ht hu
  by_cases hw : .mem ∈ writesOf i
  · rcases mem_mem_writesOf hw with ⟨x, rfl⟩ | ⟨x, rfl⟩
    · cases ht
      cases hu
      refine ⟨?_, fun hs hm a => State.readByte_writeBytes_two _ s { s with mem := m } (s.indexed 0) a hs hm⟩
      rw [State.writeBytes_eq _ { s with mem := m }]
      exact (State.writeBytes_eq _ s _).symm
    · cases ht
      cases hu
      refine ⟨?_, fun hs hm a => State.readByte_storeRegs_two _ s { s with mem := m } a rfl rfl hs hm⟩
      rw [State.storeRegs_eq _ { s with mem := m }]
      exact (State.storeRegs_eq _ s).symm
  · have hr : .mem ∉ readsOf i := by
      intro h
      rcases mem_mem_readsOf h with ⟨x, y, n, h⟩ | ⟨x, h⟩
      · exact hdrw x y n h
      · exact hload x h
    obtain rfl : { t with mem := m } = u := Host.Outcome.next.inj ((exec_withMem hr hw ht m).symm.trans hu)
    refine ⟨rfl, fun _ _ a => .inr ⟨?_, rfl⟩⟩
    simp only [State.readByte, exec_mem_eq hw ht]

/-- Settles O13: pc and pc + 1 are two addresses modulo 4096, so the second store leaves the first byte. -/
theorem fetchSeesEarlierStores : Obligations.FetchSeesEarlierStores := by
  intro s b c hw
  have hne : s.pc.toNat % memSize ≠ (s.pc.toNat + 1) % memSize := by
    simp only [memSize]
    omega
  have hfirst : ((s.writeByte s.pc.toNat b).writeByte (s.pc.toNat + 1) c).readByte s.pc.toNat = b := by
    rw [State.readByte_writeByte_ne _ _ _ _ hne]
    exact State.readByte_writeByte_same s _ _ b hw rfl
  have hsecond : ((s.writeByte s.pc.toNat b).writeByte (s.pc.toNat + 1) c).readByte (s.pc.toNat + 1) = c :=
    State.readByte_writeByte_same _ _ _ c (State.wf_writeByte s _ b hw) rfl
  simp only [State.fetchWord, State.writeByte_pc, hfirst, hsecond, wordOfBytes_toNat]

end Sys2Proof.Machine
end

section
/-! ## Encoding: fields, dispatch, and the opcode table

The decoder is described once by its primary dispatch on the nibble w[15:12] and by its four secondary tables; the
statements of 30_encoding.md are read off these. -/

namespace Sys2Proof

/-! ### Words from a known primary nibble (30_encoding.md R91) -/

theorem fieldOp_eq_iff (w : Word) (op : Nibble) : fieldOp w = op ↔ w.toNat / 4096 = op.val := by
  have := w.isLt
  rw [Fin.ext_iff, fieldOp_val]
  omega

/-- NN is Y ++ N. -/
theorem fieldNN_eq_fieldY_fieldN (w : Word) : (fieldNN w).toNat = (fieldY w).val * 16 + (fieldN w).val := by
  rw [fieldNN_toNat, fieldY_val, fieldN_val]
  omega

theorem packXYN_fieldY_fieldN (op x : Nibble) (w : Word) :
    packXYN op x (fieldY w) (fieldN w) = packXNN op x (fieldNN w) := by
  apply BitVec.eq_of_toNat_eq
  rw [packXYN_toNat, packXNN_toNat, fieldNN_eq_fieldY_fieldN]
  omega

/-! ### A word under a mask -/

theorem nibbleAt_and (w m : Word) (lo : Nat) : nibbleAt (w &&& m) lo = nibbleAt w lo &&& nibbleAt m lo := by
  apply Fin.ext
  rw [Fin.and_val]
  change (w &&& m).toNat / 2 ^ lo % 2 ^ (lo + 3 + 1 - lo) % 2 ^ 4 = _
  rw [BitVec.toNat_and, Nat.and_div_two_pow, Nat.and_mod_two_pow, Nat.and_mod_two_pow]
  rfl

/-- A mask acts on each nibble of a word. -/
theorem and_packXYN (w : Word) (a b c d : Nibble) :
    w &&& packXYN a b c d = packXYN (fieldOp w &&& a) (fieldX w &&& b) (fieldY w &&& c) (fieldN w &&& d) := by
  rw [← packXYN_fields (w &&& packXYN a b c d)]
  congr 1
  · exact (nibbleAt_and ..).trans (congrArg _ (fieldOp_packXYN a b c d))
  · exact (nibbleAt_and ..).trans (congrArg _ (fieldX_packXYN a b c d))
  · exact (nibbleAt_and ..).trans (congrArg _ (fieldY_packXYN a b c d))
  · exact (nibbleAt_and ..).trans (congrArg _ (fieldN_packXYN a b c d))

theorem nibble_and_F (a : Nibble) : a &&& 0xF = a := by revert a; decide

theorem nibble_and_zero (a : Nibble) : a &&& 0x0 = 0x0 := by revert a; decide

/-- The mask of a family that has no secondary key keeps the primary nibble. -/
theorem and_F000 (w : Word) : w &&& 0xF000#16 = packXYN (fieldOp w) 0x0 0x0 0x0 :=
  (and_packXYN w 0xF 0x0 0x0 0x0).trans (by simp only [nibble_and_F, nibble_and_zero])

/-- The mask of family 8 keeps the primary nibble and N. -/
theorem and_F00F (w : Word) : w &&& 0xF00F#16 = packXYN (fieldOp w) 0x0 0x0 (fieldN w) :=
  (and_packXYN w 0xF 0x0 0x0 0xF).trans (by simp only [nibble_and_F, nibble_and_zero])

/-- The mask of the families 0, E and F keeps the primary nibble and NN. -/
theorem and_F0FF (w : Word) : w &&& 0xF0FF#16 = packXNN (fieldOp w) 0x0 (fieldNN w) := by
  rw [← packXYN_fieldY_fieldN]
  exact (and_packXYN w 0xF 0x0 0xF 0xF).trans (by simp only [nibble_and_F, nibble_and_zero])

/-! ### The primary dispatch (30_encoding.md R94, R97) -/

section
variable {key : SecondaryKey} {w : Word}

theorem decodeWith_family0 (h : fieldOp w = 0x0) : decodeWith key w = decodeFamily0 key w := by
  simp [decodeWith, h]

theorem decodeWith_family8 (h : fieldOp w = 0x8) : decodeWith key w = decodeFamily8 w := by
  simp [decodeWith, h]

theorem decodeWith_familyE (h : fieldOp w = 0xE) : decodeWith key w = decodeFamilyE key w := by
  simp [decodeWith, h]

theorem decodeWith_familyF (h : fieldOp w = 0xF) : decodeWith key w = decodeFamilyF w := by
  simp [decodeWith, h]

end

/-- The instruction of a word whose family has no secondary table; the last case stands for family D. -/
def directInstr (w : Word) : Instr :=
  match (fieldOp w).val with
  | 0x1 => .jp (fieldNNN w)
  | 0x2 => .call (fieldNNN w)
  | 0x3 => .seByte (fieldX w) (fieldNN w)
  | 0x4 => .sneByte (fieldX w) (fieldNN w)
  | 0x5 => .seReg (fieldX w) (fieldY w) (fieldN w)
  | 0x6 => .ldByte (fieldX w) (fieldNN w)
  | 0x7 => .addByte (fieldX w) (fieldNN w)
  | 0x9 => .sneReg (fieldX w) (fieldY w) (fieldN w)
  | 0xA => .ldI (fieldNNN w)
  | 0xB => .jpV0 (fieldNNN w)
  | 0xC => .rnd (fieldX w) (fieldNN w)
  | _ => .drw (fieldX w) (fieldY w) (fieldN w)

/-- The families with a secondary table (30_encoding.md R95). -/
def keyedFamilies : List Nibble := [0x0, 0x8, 0xE, 0xF]

theorem decodeWith_direct (key : SecondaryKey) {w : Word} (h : fieldOp w ∉ keyedFamilies) :
    decodeWith key w = .ok (directInstr w) := by
  unfold decodeWith directInstr
  split <;> grind [keyedFamilies]

theorem family_cases (w : Word) : fieldOp w = 0x0 ∨ fieldOp w = 0x8 ∨ fieldOp w = 0xE ∨ fieldOp w = 0xF ∨
    fieldOp w ∉ keyedFamilies := by
  simp only [keyedFamilies, List.mem_cons, List.not_mem_nil]
  tauto

/-! ### The secondary tables of the families 0 and E, for either key (30_encoding.md R98, R103) -/

/-- The byte key YN names both nibbles. -/
theorem fieldNN_eq_iff (w : Word) (y n : Nibble) :
    (fieldNN w).toNat = y.val * 16 + n.val ↔ fieldN w = n ∧ fieldY w = y := by
  rw [fieldNN_eq_fieldY_fieldN, Fin.ext_iff, Fin.ext_iff]
  omega

theorem decodeFamily0_eq (key : SecondaryKey) (w : Word) : decodeFamily0 key w =
    if fieldN w = 0x0 ∧ key.admits 0xE (fieldY w) = true then .ok (.cls (fieldX w) (fieldY w))
    else if fieldN w = 0xE ∧ key.admits 0xE (fieldY w) = true then .ok (.ret (fieldX w) (fieldY w))
    else .error .family0 := by
  cases key with
  | byte =>
    simp only [decodeFamily0, SecondaryKey.admits, beq_iff_eq, ← fieldNN_eq_iff]
    split <;> simp_all
  | nibble =>
    simp only [decodeFamily0, SecondaryKey.admits, and_true, Fin.ext_iff]
    split <;> simp_all

theorem decodeFamilyE_eq (key : SecondaryKey) (w : Word) : decodeFamilyE key w =
    if fieldN w = 0xE ∧ key.admits 0x9 (fieldY w) = true then .ok (.skp (fieldX w) (fieldY w))
    else if fieldN w = 0x1 ∧ key.admits 0xA (fieldY w) = true then .ok (.sknp (fieldX w) (fieldY w))
    else .error .familyE := by
  cases key with
  | byte =>
    simp only [decodeFamilyE, SecondaryKey.admits, beq_iff_eq, ← fieldNN_eq_iff]
    split <;> simp_all
  | nibble =>
    simp only [decodeFamilyE, SecondaryKey.admits, and_true, Fin.ext_iff]
    split <;> simp_all

/-! ### Decoding an encoding -/

/-- Settles O1: family by family, since the fields of a packed word are its operands. -/
theorem wellFormedInstructionDecodesBack : Obligations.WellFormedInstructionDecodesBack := by
  intro key i h
  cases i with
  | cls x y | ret x y =>
    have hy : key.admits 0xE y = true := h
    simp [Instr.encode, decodeWith_family0, decodeFamily0_eq, hy]
  | skp x y =>
    have hy : key.admits 0x9 y = true := h
    simp [Instr.encode, decodeWith_familyE, decodeFamilyE_eq, hy]
  | sknp x y =>
    have hy : key.admits 0xA y = true := h
    simp [Instr.encode, decodeWith_familyE, decodeFamilyE_eq, hy]
  | ldReg x y | orReg x y | andReg x y | xorReg x y | addReg x y | subReg x y | shr x y | subnReg x y | shl x y =>
    simp [Instr.encode, decodeWith_family8, decodeFamily8]
  | ldVxDt x | ldVxK x | ldDtVx x | ldStVx x | addI x | ldF x | ldB x | ldMemVx x | ldVxMem x =>
    simp [Instr.encode, decodeWith_familyF, decodeFamilyF]
  | jp | call | seByte | sneByte | seReg | ldByte | addByte | sneReg | ldI | jpV0 | rnd | drw =>
    simp [Instr.encode, decodeWith_direct, directInstr, keyedFamilies]

/-! ### Encoding what was decoded -/

section
variable {key : SecondaryKey} {w : Word} {i : Instr} {op n : Nibble} {nn : Byte}

theorem packXYN_eq (hop : fieldOp w = op) (hn : (fieldN w).val = n.val) :
    packXYN op (fieldX w) (fieldY w) n = w := by
  rw [← hop, ← Fin.ext hn, packXYN_fields]

theorem packXNN_eq (hop : fieldOp w = op) (hnn : (fieldNN w).toNat = nn.toNat) :
    packXNN op (fieldX w) nn = w := by
  rw [← hop, ← BitVec.eq_of_toNat_eq hnn, packXNN_fields]

theorem packNNN_eq (hop : fieldOp w = op) : packNNN op (fieldNNN w) = w := by
  rw [← hop, packNNN_fields]

theorem encode_of_decodeFamily0 (hop : fieldOp w = 0x0) (h : decodeFamily0 key w = .ok i) :
    i.wellFormedWith key = true ∧ i.encode = w := by
  rw [decodeFamily0_eq] at h
  split_ifs at h with hk hk <;> cases h <;> exact ⟨hk.2, packXYN_eq hop (congrArg Fin.val hk.1)⟩

theorem encode_of_decodeFamilyE (hop : fieldOp w = 0xE) (h : decodeFamilyE key w = .ok i) :
    i.wellFormedWith key = true ∧ i.encode = w := by
  rw [decodeFamilyE_eq] at h
  split_ifs at h with hk hk <;> cases h <;> exact ⟨hk.2, packXYN_eq hop (congrArg Fin.val hk.1)⟩

theorem encode_of_decodeFamily8 (hop : fieldOp w = 0x8) (h : decodeFamily8 w = .ok i) :
    i.wellFormedWith key = true ∧ i.encode = w := by
  unfold decodeFamily8 at h
  split at h <;> cases h <;> exact ⟨rfl, packXYN_eq hop ‹_›⟩

theorem encode_of_decodeFamilyF (hop : fieldOp w = 0xF) (h : decodeFamilyF w = .ok i) :
    i.wellFormedWith key = true ∧ i.encode = w := by
  unfold decodeFamilyF at h
  split at h <;> cases h <;> exact ⟨rfl, packXNN_eq hop ‹_›⟩

theorem directInstr_wellFormedWith (key : SecondaryKey) (w : Word) : (directInstr w).wellFormedWith key = true := by
  unfold directInstr
  split <;> rfl

theorem directInstr_encode (h : fieldOp w ∉ keyedFamilies) : (directInstr w).encode = w := by
  unfold directInstr
  split
  case h_1 | h_2 | h_9 | h_10 => exact packNNN_eq (Fin.ext ‹_›)
  case h_3 | h_4 | h_6 | h_7 | h_11 => exact packXNN_eq (Fin.ext ‹_›) rfl
  case h_5 | h_8 => exact packXYN_eq (Fin.ext ‹_›) rfl
  case h_12 =>
    refine packXYN_eq ?_ rfl
    grind [keyedFamilies]

end

/-- Settles O2, family by family. -/
theorem decodedWordEncodesBack : Obligations.DecodedWordEncodesBack := by
  intro key w i h
  rcases family_cases w with hop | hop | hop | hop | hop
  · exact encode_of_decodeFamily0 hop (decodeWith_family0 hop ▸ h)
  · exact encode_of_decodeFamily8 hop (decodeWith_family8 hop ▸ h)
  · exact encode_of_decodeFamilyE hop (decodeWith_familyE hop ▸ h)
  · exact encode_of_decodeFamilyF hop (decodeWith_familyF hop ▸ h)
  · obtain rfl : directInstr w = i := Except.ok.inj ((decodeWith_direct key hop).symm.trans h)
    exact ⟨directInstr_wellFormedWith key w, directInstr_encode hop⟩

/-! ### The opcode table as match and mask (30_encoding.md R99) -/

theorem row_mem_opcodeTable (i : Instr) : i.row ∈ opcodeTable := by
  cases i <;> simp [Instr.row, opcodeTable, opcodeRows1, opcodeRows2, opcodeRows3, opcodeRows4]

/-- A well-formed instruction's word matches its row. -/
theorem encode_and_mask (i : Instr) (h : i.wellFormed = true) : i.encode &&& i.row.mask = i.row.pattern := by
  cases i with
  | cls x y | ret x y | skp x y | sknp x y =>
    obtain rfl := eq_of_beq h
    simp only [Instr.encode, Instr.row, and_F0FF, ← packXYN_fieldY_fieldN, fieldOp_packXYN, fieldY_packXYN,
      fieldN_packXYN]
    rfl
  | ldReg x y | orReg x y | andReg x y | xorReg x y | addReg x y | subReg x y | shr x y | subnReg x y | shl x y =>
    simp only [Instr.encode, Instr.row, and_F00F, fieldOp_packXYN, fieldN_packXYN]
    rfl
  | ldVxDt x | ldVxK x | ldDtVx x | ldStVx x | addI x | ldF x | ldB x | ldMemVx x | ldVxMem x =>
    simp only [Instr.encode, Instr.row, and_F0FF, fieldOp_packXNN, fieldNN_packXNN]
    rfl
  | jp | call | seByte | sneByte | seReg | ldByte | addByte | sneReg | ldI | jpV0 | rnd | drw =>
    simp only [Instr.encode, Instr.row, and_F000, fieldOp_packXYN, fieldOp_packXNN, fieldOp_packNNN]
    rfl

/-- The bits that select a handler within a family: the mask of its rows. -/
def familyMask (op : Nibble) : Word :=
  if op = 0x8 then 0xF00F#16 else if op ∈ keyedFamilies then 0xF0FF#16 else 0xF000#16

theorem fieldOp_and_familyMask (w : Word) (op : Nibble) : fieldOp (w &&& familyMask op) = fieldOp w := by
  unfold familyMask
  split_ifs
  · rw [and_F00F, fieldOp_packXYN]
  · rw [and_F0FF, fieldOp_packXNN]
  · rw [and_F000, fieldOp_packXYN]

section
variable {w w' : Word}

theorem fieldNN_eq_of_and_eq (h : w &&& 0xF0FF#16 = w' &&& 0xF0FF#16) : fieldNN w = fieldNN w' := by
  have hNN := congrArg fieldNN h
  rwa [and_F0FF, and_F0FF, fieldNN_packXNN, fieldNN_packXNN] at hNN

theorem fieldN_eq_of_and_eq (h : w &&& 0xF00F#16 = w' &&& 0xF00F#16) : fieldN w = fieldN w' := by
  have hN := congrArg fieldN h
  rwa [and_F00F, and_F00F, fieldN_packXYN, fieldN_packXYN] at hN

theorem decodeFamily0_row_congr (h : fieldNN w = fieldNN w') :
    (decodeFamily0 .byte w).map Instr.row = (decodeFamily0 .byte w').map Instr.row := by
  simp only [decodeFamily0, h]
  split <;> rfl

theorem decodeFamily8_row_congr (h : fieldN w = fieldN w') :
    (decodeFamily8 w).map Instr.row = (decodeFamily8 w').map Instr.row := by
  simp only [decodeFamily8, h]
  split <;> rfl

theorem decodeFamilyE_row_congr (h : fieldNN w = fieldNN w') :
    (decodeFamilyE .byte w).map Instr.row = (decodeFamilyE .byte w').map Instr.row := by
  simp only [decodeFamilyE, h]
  split <;> rfl

theorem decodeFamilyF_row_congr (h : fieldNN w = fieldNN w') :
    (decodeFamilyF w).map Instr.row = (decodeFamilyF w').map Instr.row := by
  simp only [decodeFamilyF, h]
  split <;> rfl

theorem directInstr_row_congr (h : fieldOp w = fieldOp w') : (directInstr w).row = (directInstr w').row := by
  simp only [directInstr, h]
  split <;> rfl

end

/-- The row a word decodes to. -/
def decodedRow (w : Word) : Except Unregistered OpcodeRow := (decodeWord w).map Instr.row

/-- The decoder reads a row off the primary nibble and the secondary key alone: a word decodes to the row of any word
that agrees with it under the family's mask. -/
theorem decodedRow_congr {w w' : Word} (h : w &&& familyMask (fieldOp w) = w' &&& familyMask (fieldOp w)) :
    decodedRow w = decodedRow w' := by
  have hop' : fieldOp w' = fieldOp w := by
    rw [← fieldOp_and_familyMask w' (fieldOp w), ← h, fieldOp_and_familyMask]
  unfold decodedRow decodeWord secondaryKey0E
  rcases family_cases w with hop | hop | hop | hop | hop
  · rw [hop] at h hop'
    rw [decodeWith_family0 hop, decodeWith_family0 hop']
    exact decodeFamily0_row_congr (fieldNN_eq_of_and_eq h)
  · rw [hop] at h hop'
    rw [decodeWith_family8 hop, decodeWith_family8 hop']
    exact decodeFamily8_row_congr (fieldN_eq_of_and_eq h)
  · rw [hop] at h hop'
    rw [decodeWith_familyE hop, decodeWith_familyE hop']
    exact decodeFamilyE_row_congr (fieldNN_eq_of_and_eq h)
  · rw [hop] at h hop'
    rw [decodeWith_familyF hop, decodeWith_familyF hop']
    exact decodeFamilyF_row_congr (fieldNN_eq_of_and_eq h)
  · rw [decodeWith_direct .byte hop, decodeWith_direct .byte (hop'.symm ▸ hop)]
    exact congrArg Except.ok (directInstr_row_congr hop'.symm)

theorem mask_of_mem_opcodeTable : ∀ r ∈ opcodeTable, r.mask = familyMask (fieldOp r.pattern) := by decide

theorem pattern_and_mask : ∀ r ∈ opcodeTable, r.pattern &&& r.mask = r.pattern := by decide

theorem decodedRow_pattern : ∀ r ∈ opcodeTable, decodedRow r.pattern = .ok r := by decide

/-- A word that matches a row decodes to that row: it agrees with the row's pattern under the mask. -/
theorem decodedRow_of_match {w : Word} {r : OpcodeRow} (hr : r ∈ opcodeTable) (h : w &&& r.mask = r.pattern) :
    decodedRow w = .ok r := by
  have hmask := mask_of_mem_opcodeTable r hr
  have hop : fieldOp r.pattern = fieldOp w := by
    rw [← h, hmask, fieldOp_and_familyMask]
  have hagree : w &&& familyMask (fieldOp w) = r.pattern &&& familyMask (fieldOp w) := by
    rw [← hop, ← hmask, h, pattern_and_mask r hr]
  rw [decodedRow_congr hagree, decodedRow_pattern r hr]

/-- Settles O3: a decoded word is the encoding of its instruction (O2), and a match gives the row. -/
theorem matchAndMaskSelectTheDecodedRow : Obligations.MatchAndMaskSelectTheDecodedRow := by
  intro w
  refine ⟨fun i h => ?_, fun r hr h => ?_⟩
  · obtain ⟨hwf, rfl⟩ := decodedWordEncodesBack secondaryKey0E w i h
    exact ⟨row_mem_opcodeTable i, encode_and_mask i hwf⟩
  · have hrow : (decodeWord w).map Instr.row = .ok r := decodedRow_of_match hr h
    cases hd : decodeWord w with
    | error e =>
      rw [hd] at hrow
      cases hrow
    | ok i =>
      rw [hd] at hrow
      exact ⟨i, rfl, Except.ok.inj hrow⟩

/-! ### The words without a handler (30_encoding.md R100) -/

section
variable (w : Word)

theorem decodeFamily0_error_iff :
    (∃ r, decodeFamily0 .byte w = .error r) ↔ w.toNat % 256 ∉ [0xE0, 0xEE] := by
  rw [← fieldNN_toNat]
  simp only [decodeFamily0]
  split <;> simp_all

theorem decodeFamily8_error_iff :
    (∃ r, decodeFamily8 w = .error r) ↔ w.toNat % 16 ∈ [0x8, 0x9, 0xA, 0xB, 0xC, 0xD, 0xF] := by
  rw [← fieldN_val]
  have := (fieldN w).isLt
  simp only [decodeFamily8]
  split <;> grind

theorem decodeFamilyE_error_iff :
    (∃ r, decodeFamilyE .byte w = .error r) ↔ w.toNat % 256 ∉ [0x9E, 0xA1] := by
  rw [← fieldNN_toNat]
  simp only [decodeFamilyE]
  split <;> simp_all

theorem decodeFamilyF_error_iff : (∃ r, decodeFamilyF w = .error r) ↔
    w.toNat % 256 ∉ [0x07, 0x0A, 0x15, 0x18, 0x1E, 0x29, 0x33, 0x55, 0x65] := by
  rw [← fieldNN_toNat]
  simp only [decodeFamilyF]
  split <;> simp_all

end

/-- Settles O4: family by family; a word of another family always decodes. -/
theorem unregisteredWordsAreThoseListed : Obligations.UnregisteredWordsAreThoseListed := by
  intro w
  unfold decodeWord secondaryKey0E
  rcases family_cases w with hop | hop | hop | hop | hop
  · rw [decodeWith_family0 hop, decodeFamily0_error_iff, (fieldOp_eq_iff w _).mp hop]
    simp
  · rw [decodeWith_family8 hop, decodeFamily8_error_iff, (fieldOp_eq_iff w _).mp hop]
    simp
  · rw [decodeWith_familyE hop, decodeFamilyE_error_iff, (fieldOp_eq_iff w _).mp hop]
    simp
  · rw [decodeWith_familyF hop, decodeFamilyF_error_iff, (fieldOp_eq_iff w _).mp hop]
    simp
  · rw [decodeWith_direct .byte hop]
    have hother : w.toNat / 4096 ∉ [0x0, 0x8, 0xE, 0xF] := by
      simpa [keyedFamilies, fieldOp_eq_iff] using hop
    simp_all

/-! ### The nibble key (30_encoding.md R103), words of the spec (R102), ignored bits (R96) -/

/-- Settles O6: the four forms are encodings of well-formed instructions, and the other families have no table that
depends on the key. -/
theorem nibbleKeyChangesFamilies0AndE : Obligations.NibbleKeyChangesFamilies0AndE := by
  refine ⟨fun x y => ?_, fun w h0 hE => ?_⟩
  · exact ⟨wellFormedInstructionDecodesBack .nibble (.cls x y) rfl,
      wellFormedInstructionDecodesBack .nibble (.ret x y) rfl,
      wellFormedInstructionDecodesBack .nibble (.skp x y) rfl,
      wellFormedInstructionDecodesBack .nibble (.sknp x y) rfl⟩
  · rcases family_cases w with hop | hop | hop | hop | hop
    · exact absurd ((fieldOp_eq_iff w _).mp hop) h0
    · rw [decodeWith_family8 hop, decodeWith_family8 hop]
    · exact absurd ((fieldOp_eq_iff w _).mp hop) hE
    · rw [decodeWith_familyF hop, decodeWith_familyF hop]
    · rw [decodeWith_direct .nibble hop, decodeWith_direct .byte hop]

/-- Settles O5, by evaluating the decoder on the ten words. -/
theorem wordsOfTheSpecDecode : Obligations.WordsOfTheSpecDecode := by
  unfold Obligations.WordsOfTheSpecDecode
  decide

/-- Settles O7: the answers of these instructions do not name the ignored operands. -/
theorem ignoredBitsDoNotAffectExecution : Obligations.IgnoredBitsDoNotAffectExecution := by
  intro x y n x' y' n' s
  simp only [Machine.exec_cls, Machine.exec_ret, Machine.exec_seReg, Machine.exec_sneReg, Machine.exec_shr,
    Machine.exec_shl, Machine.exec_skp, Machine.exec_sknp, and_self]

end Sys2Proof
end

section
/-! ## What a cycle answers

A handler always answers a next state, so a cycle does; the equations of `step` and of the parts of a cycle around the
handler (40_cycle_engine.md R120 to R129). -/

namespace Sys2Proof.Machine

/-- The advance writes pc only (40_cycle_engine.md R122). -/
theorem State.sameBut_advance (s : State) : s.sameBut s.advance [.pc] := by
  intro c hc
  have hpc : c ≠ .pc := by simpa using hc
  have hg : s.advance.graft c s = s.advance := by simp [State.advance, hpc]
  rw [← hg]
  exact State.sameOn_graft s _ c

/-- Every write of pc is reduced modulo 4096 (10_state.md R33). -/
theorem State.setPc_pc_toNat (s : State) (a : Word) : (s.setPc a).pc.toNat = a.toNat % 4096 := BitVec.toNat_umod

theorem State.advance_pc_toNat (s : State) : s.advance.pc.toNat = (s.pc.toNat + 2) % 4096 := by
  rw [State.advance, State.setPc_pc_toNat, BitVec.toNat_add, BitVec.toNat_ofNat]
  omega

theorem State.fetchWord_toNat (s : State) : s.fetchWord.toNat =
    (s.readByte s.pc.toNat).toNat * 256 + (s.readByte (s.pc.toNat + 1)).toNat :=
  wordOfBytes_toNat _ _

/-- Settles O9. -/
theorem fetchIsBigEndianAndAdvanceAddsTwo : Obligations.FetchIsBigEndianAndAdvanceAddsTwo :=
  fun s => ⟨s.fetchWord_toNat, s.advance_pc_toNat, s.sameBut_advance⟩

/-- Every handler answers a next state (40_cycle_engine.md R129). -/
theorem exec_answers (i : Instr) (s : State) : ∃ t, exec i s = .next t := by
  cases i
  case ldVxK x =>
    cases hk : s.firstKey with
    | none => exact ⟨_, exec_ldVxK_of_none x s hk⟩
    | some k => exact ⟨_, exec_ldVxK_of_some x s hk⟩
  all_goals exact ⟨_, rfl⟩

/-- The cycle of a registered word (40_cycle_engine.md R120). -/
theorem step_of_ok {s u : State} {i : Instr} (hf : s.fetchInstr = .ok i) (hu : exec i s.advance = .next u) :
    step s = .next u.endCycle := by
  simp only [step, hf, hu, finishCycle]

/-- The cycle of an unregistered word (40_cycle_engine.md R124). -/
theorem step_of_error {s : State} {r : Unregistered} (hf : s.fetchInstr = .error r) :
    step s = .next s.advance.endCycle := by
  simp only [step, hf, execUnregistered, finishCycle]

theorem step_answers (s : State) : ∃ t, step s = .next t := by
  cases hf : s.fetchInstr with
  | ok i =>
    obtain ⟨u, hu⟩ := exec_answers i s.advance
    exact ⟨_, step_of_ok hf hu⟩
  | error r => exact ⟨_, step_of_error hf⟩

/-- A timer that is zero stays, any other loses one (40_cycle_engine.md R125). -/
theorem tickTimer_eq (b : Byte) : tickTimer b = if b = 0#8 then b else b - 1#8 := by
  unfold tickTimer
  split
  · next h => exact h.symm
  · rfl

/-- Settles O8: the two equations of `step`, with the advance and the end of the cycle written out. -/
theorem stepRunsTheDecodedInstruction : Obligations.StepRunsTheDecodedInstruction := by
  refine fun s => ⟨fun i hi => ?_, fun r hr => ?_⟩
  · obtain ⟨u, hu⟩ := exec_answers i s.advance
    refine ⟨u, hu, ?_⟩
    rw [step_of_ok hi hu, State.endCycle_eq, tickTimer_eq, tickTimer_eq]
  · rw [step_of_error hr, State.endCycle_eq, tickTimer_eq, tickTimer_eq, State.advance_eq]

/-- Stepping back from the advanced pc gives the old one, at 0xFFE and 0xFFF too (10_state.md R33, R34). -/
theorem State.stepBack_pc {s : State} (h : s.pc.toNat < 4096) : (s.advance.setPc (s.advance.pc - 2#16)).pc = s.pc := by
  apply BitVec.eq_of_toNat_eq
  rw [State.setPc_pc_toNat, BitVec.toNat_sub, State.advance_pc_toNat, BitVec.toNat_ofNat]
  omega

/-- Settles O10: with no key pressed, LD Vx, K steps back from the advanced pc. -/
theorem everyCycleAnswersANextState : Obligations.EveryCycleAnswersANextState := by
  refine ⟨step_answers, exec_answers, fun s x hf hpc hkeys => ?_⟩
  have hk : s.advance.firstKey = none := (State.firstKey_eq_none_iff _).mpr hkeys
  exact ⟨_, step_of_ok hf (exec_ldVxK_of_none x _ hk), State.stepBack_pc hpc⟩

/-! ### The timers -/

theorem State.endCycle_dt_toNat (s : State) : s.endCycle.dt.toNat = s.dt.toNat - 1 := tickTimer_toNat s.dt

theorem State.endCycle_st_toNat (s : State) : s.endCycle.st.toNat = s.st.toNat - 1 := tickTimer_toNat s.st

theorem exec_dt_eq {i : Instr} {s t : State} (hi : ∀ x, i ≠ .ldDtVx x) (h : exec i s = .next t) : t.dt = s.dt :=
  instructionsWriteOnlyTheirComponents i s t h .dt fun hw => let ⟨x, hx⟩ := dt_mem_writesOf hw; hi x hx

theorem exec_st_eq {i : Instr} {s t : State} (hi : ∀ x, i ≠ .ldStVx x) (h : exec i s = .next t) : t.st = s.st :=
  instructionsWriteOnlyTheirComponents i s t h .st fun hw => let ⟨x, hx⟩ := st_mem_writesOf hw; hi x hx

/-- Settles O11: the end of a cycle counts down the timers the handler leaves, which are those of the state but for
the one that LD DT, Vx or LD ST, Vx has just written. -/
theorem timersTickInEveryCycle : Obligations.TimersTickInEveryCycle := by
  intro s
  obtain ⟨t, ht⟩ := step_answers s
  refine ⟨t, ht, ?_⟩
  obtain ⟨u, rfl, ⟨i, hf, hu⟩ | ⟨r, hf, rfl⟩⟩ := step_eq_next ht
  · rw [State.endCycle_dt_toNat, State.endCycle_st_toNat, hf]
    refine ⟨fun x hx => ?_, fun hx => ?_, fun x hx => ?_, fun hx => ?_⟩
    · cases hx
      cases hu
      rfl
    · rw [exec_dt_eq (fun x hi => hx x (congrArg _ hi)) hu]
      rfl
    · cases hx
      cases hu
      rfl
    · rw [exec_st_eq (fun x hi => hx x (congrArg _ hi)) hu]
      rfl
  · rw [State.endCycle_dt_toNat, State.endCycle_st_toNat, hf]
    exact ⟨fun _ hx => (nomatch hx), fun _ => rfl, fun _ hx => (nomatch hx), fun _ => rfl⟩

/-! ### The random draw -/

theorem draws_mem_readsOf {i : Instr} (h : .draws ∈ readsOf i) : ∃ x nn, i = .rnd x nn := by
  cases i <;> simp [readsOf] at h ⊢

theorem draws_not_mem_writesOf (i : Instr) : .draws ∉ writesOf i := by
  cases i <;> simp [writesOf]

/-- Settles O58: the noninterference law for the draw counter, which no handler writes and only RND reads. -/
theorem drawIsReadByRandomOnly : Obligations.DrawIsReadByRandomOnly := by
  intro i s n hi
  have hr : .draws ∉ readsOf i := fun h => let ⟨x, nn, h⟩ := draws_mem_readsOf h; hi x nn h
  exact exec_graft i s { s with draws := n } hr (draws_not_mem_writesOf i)

end Sys2Proof.Machine
end

section
/-! ## Control flow

What a write of pc, a skip, a CALL and a RET leave in pc, SP and the stack (41_control_flow.md R140 to R148). The frame
of each statement is the frame law of its instruction (O53). -/

namespace Sys2Proof.Machine

/-! ### The values written to pc -/

theorem addrOperand_toNat (nnn : Addr) : (addrOperand nnn).toNat = nnn.toNat :=
  BitVec.toNat_setWidth_of_le (by decide)

theorem State.regWord_toNat (s : State) (x : Nibble) : (s.regWord x).toNat = (s.reg x).toNat :=
  BitVec.toNat_setWidth_of_le (by decide)

/-- An address below 4096 is written to pc as it stands. -/
theorem State.setPc_pc_of_lt (s : State) {a : Word} (h : a.toNat < 4096) : (s.setPc a).pc = a :=
  BitVec.eq_of_toNat_eq (by rw [State.setPc_pc_toNat, Nat.mod_eq_of_lt h])

theorem State.setPc_addrOperand_pc_toNat (s : State) (nnn : Addr) :
    (s.setPc (addrOperand nnn)).pc.toNat = nnn.toNat := by
  rw [State.setPc_pc_of_lt s (by rw [addrOperand_toNat]; exact nnn.isLt), addrOperand_toNat]

/-! ### The jumps -/

/-- Settles O22: NNN is below 4096. -/
theorem jumpReplacesPc : Obligations.JumpReplacesPc :=
  fun nnn s => ⟨_, exec_jp nnn s, s.setPc_addrOperand_pc_toNat nnn,
    instructionsWriteOnlyTheirComponents (.jp nnn) s _ rfl⟩

/-- Settles O28: NNN + V0 is below 65536, so only the reduction of pc applies to it. -/
theorem jumpWithOffsetAddsV0 : Obligations.JumpWithOffsetAddsV0 := by
  refine fun nnn s => ⟨_, exec_jpV0 nnn s, ?_, instructionsWriteOnlyTheirComponents (.jpV0 nnn) s _ rfl⟩
  have hnnn := nnn.isLt
  have hv0 := (s.reg 0).isLt
  rw [State.setPc_pc_toNat, BitVec.toNat_add, addrOperand_toNat, State.regWord_toNat]
  omega

/-! ### CALL and RET -/

/-- Settles O23: the stack is written at the new SP only, and pc after it. -/
theorem callPushesPcAndJumps : Obligations.CallPushesPcAndJumps := by
  refine fun nnn s => ⟨_, exec_call nnn s, State.setPc_addrOperand_pc_toNat _ nnn, Fin.val_add s.sp 1, ?_,
    fun j hj => ?_, instructionsWriteOnlyTheirComponents (.call nnn) s _ rfl⟩
  · exact State.stackAt_setStackAt_same _ (s.sp + 1) s.pc
  · exact State.stackAt_setStackAt_ne _ (s.sp + 1) j s.pc hj

/-- Settles O24: modulo 16, SP - 1 is SP + 15. -/
theorem returnPopsPc : Obligations.ReturnPopsPc := by
  refine fun x y s => ⟨_, exec_ret x y s, s.setPc_pc_toNat _, ?_, fun h => s.setPc_pc_of_lt (h s.sp),
    instructionsWriteOnlyTheirComponents (.ret x y) s _ rfl⟩
  calc (s.sp - 1).val = (15 + s.sp.val) % 16 := Fin.val_sub s.sp 1
    _ = (s.sp.val + 15) % 16 := by rw [Nat.add_comm]

/-- Settles O25: the RET pops the pc that the CALL pushed, and steps SP back by the one the CALL added. -/
theorem callThenReturnRestoresPcAndSp : Obligations.CallThenReturnRestoresPcAndSp := by
  intro nnn x y s t u hpc hcall hsp hentry
  cases hcall
  have htop : u.stackAt u.sp = s.pc := hentry.trans (State.stackAt_setStackAt_same _ (s.sp + 1) s.pc)
  refine ⟨_, exec_ret x y u, ?_, ?_⟩
  · rw [htop]
    exact u.setPc_pc_of_lt hpc
  · calc u.sp - 1 = s.sp + 1 - 1 := by rw [hsp]; rfl
      _ = s.sp := add_sub_cancel_right s.sp 1

/-! ### The skips -/

/-- A taken skip adds 2 modulo 4096 to pc, one not taken keeps it (41_control_flow.md R143). -/
theorem State.skipIf_pc_toNat (s : State) (c : Bool) :
    (s.skipIf c).pc.toNat = if c then (s.pc.toNat + 2) % 4096 else s.pc.toNat := by
  cases c with
  | false => rfl
  | true =>
    calc (s.setPc (s.pc + 2#16)).pc.toNat = (s.pc + 2#16).toNat % 4096 := s.setPc_pc_toNat _
      _ = (s.pc.toNat + 2) % 4096 := by rw [BitVec.toNat_add, BitVec.toNat_ofNat]; omega

/-- The answer of an instruction that skips on the condition p and writes pc only. -/
theorem exec_skip_answers {i : Instr} {s : State} {c : Bool} {p : Prop} [Decidable p]
    (hi : exec i s = .next (s.skipIf c)) (hw : writesOf i = [.pc]) (hc : c = true ↔ p) :
    ∃ t, exec i s = .next t ∧ s.sameBut t [.pc] ∧
      t.pc.toNat = if p then (s.pc.toNat + 2) % 4096 else s.pc.toNat :=
  ⟨_, hi, hw ▸ instructionsWriteOnlyTheirComponents i s _ hi,
    (s.skipIf_pc_toNat c).trans (if_congr hc rfl rfl)⟩

/-- Settles O26: each of the four skips on a Boolean test of its condition. -/
theorem registerSkipsAddTwo : Obligations.RegisterSkipsAddTwo :=
  fun x y n nn s => ⟨exec_skip_answers (exec_seByte x nn s) rfl beq_iff_eq,
    exec_skip_answers (exec_sneByte x nn s) rfl bne_iff_ne,
    exec_skip_answers (exec_seReg x y n s) rfl beq_iff_eq,
    exec_skip_answers (exec_sneReg x y n s) rfl bne_iff_ne⟩

/-- The advance and a taken skip add 4 to pc, the advance alone adds 2 (95_test_vectors.md L1.6). -/
theorem State.advance_skipIf_pc_toNat (s : State) (c : Bool) :
    (s.advance.skipIf c).pc.toNat = (s.pc.toNat + if c then 4 else 2) % 4096 := by
  rw [State.skipIf_pc_toNat, State.advance_pc_toNat]
  cases c with
  | false => rfl
  | true => exact Nat.mod_add_mod _ 4096 2

/-- The cycle of an instruction that skips on the condition p: the end of the cycle keeps pc. -/
theorem step_skip_answers {i : Instr} {s : State} {c : Bool} {p : Prop} [Decidable p] (hf : s.fetchInstr = .ok i)
    (hi : exec i s.advance = .next (s.advance.skipIf c)) (hc : c = true ↔ p) :
    ∃ t, step s = .next t ∧ t.pc.toNat = (s.pc.toNat + if p then 4 else 2) % 4096 := by
  refine ⟨_, step_of_ok hf hi, (s.advance_skipIf_pc_toNat c).trans ?_⟩
  rw [if_congr hc rfl rfl]

/-- The cycle of an instruction that skips unless p holds. -/
theorem step_skip_unless_answers {i : Instr} {s : State} {c : Bool} {p : Prop} [Decidable p]
    (hf : s.fetchInstr = .ok i) (hi : exec i s.advance = .next (s.advance.skipIf c)) (hc : c = true ↔ ¬p) :
    ∃ t, step s = .next t ∧ t.pc.toNat = (s.pc.toNat + if p then 2 else 4) % 4096 := by
  rw [← ite_not]
  exact step_skip_answers hf hi hc

/-- Settles O27: the advance keeps the registers and the keys, so the condition is that of the state before it. -/
theorem skipCycleAdvancesByFourOrTwo : Obligations.SkipCycleAdvancesByFourOrTwo := by
  refine fun s i hf => ⟨?_, ?_, ?_, ?_, ?_, ?_⟩
  · rintro x nn rfl
    exact step_skip_answers hf (exec_seByte x nn _) beq_iff_eq
  · rintro x nn rfl
    exact step_skip_unless_answers hf (exec_sneByte x nn _) bne_iff_ne
  · rintro x y n rfl
    exact step_skip_answers hf (exec_seReg x y n _) beq_iff_eq
  · rintro x y n rfl
    exact step_skip_unless_answers hf (exec_sneReg x y n _) bne_iff_ne
  · rintro x y rfl
    exact step_skip_answers hf (exec_skp x y _) Iff.rfl
  · rintro x y rfl
    exact step_skip_unless_answers hf (exec_sknp x y _) Bool.not_iff_not

end Sys2Proof.Machine
end

section
/-! ## Registers and ALU

What the handlers of 42_alu.md leave in VX and in VF (R161 to R172). The frames are those of the destinations and the
components of each instruction (`exec_regsSameBut`, O53). -/

namespace Sys2Proof.Machine

/-- The frame of an instruction: the registers and the components it does not write. -/
theorem exec_frame {i : Instr} {s t : State} (h : exec i s = .next t) :
    s.regsSameBut t (destsOf i) ∧ s.sameBut t (writesOf i) :=
  ⟨exec_regsSameBut h, instructionsWriteOnlyTheirComponents i s t h⟩

/-! ### Instructions without a flag -/

/-- Settles O29: VX is written once, and VF only as VX. -/
theorem immediateLoadAndAdd : Obligations.ImmediateLoadAndAdd := by
  refine fun x nn s => ⟨⟨_, exec_ldByte x nn s, State.reg_setReg_same s x nn, exec_frame (exec_ldByte x nn s)⟩,
    ⟨_, exec_addByte x nn s, ?_, exec_frame (exec_addByte x nn s)⟩⟩
  rw [State.reg_setReg_same, BitVec.toNat_add]

/-- Settles O30: VX is written once, and VF only as VX. -/
theorem registerCopyAndLogic : Obligations.RegisterCopyAndLogic :=
  fun x y s => ⟨⟨_, exec_ldReg x y s, State.reg_setReg_same s x _, exec_frame (exec_ldReg x y s)⟩,
    ⟨_, exec_orReg x y s, State.reg_setReg_same s x _, exec_frame (exec_orReg x y s)⟩,
    ⟨_, exec_andReg x y s, State.reg_setReg_same s x _, exec_frame (exec_andReg x y s)⟩,
    ⟨_, exec_xorReg x y s, State.reg_setReg_same s x _, exec_frame (exec_xorReg x y s)⟩⟩

/-- Settles O34: the draw stays a free value, and a mask of 0 clears every value of it. -/
theorem randomIsMaskedByTheImmediate : Obligations.RandomIsMaskedByTheImmediate := by
  intro x nn s
  have hx : (s.setReg x (s.rand &&& nn)).reg x = Config.rand s.draws &&& nn := State.reg_setReg_same s x _
  refine ⟨_, exec_rnd x nn s, hx, fun hnn => ?_, exec_frame (exec_rnd x nn s)⟩
  rw [hx, hnn, BitVec.and_zero]

/-! ### Flag writers -/

/-- The result stays in VX unless the flag is written over it (42_alu.md R160). -/
theorem State.reg_setRegThenFlag_dest (s : State) {x : Nibble} (b : Byte) (f : Bool) (hx : x ≠ flagReg) :
    (s.setRegThenFlag x b f).reg x = b := by
  rw [State.reg_setRegThenFlag, if_neg hx, if_pos rfl]

/-- VF ends holding the flag, whatever the destination (42_alu.md R160). -/
theorem State.reg_setRegThenFlag_flagReg (s : State) (x : Nibble) (b : Byte) (f : Bool) :
    (s.setRegThenFlag x b f).reg flagReg = flagByte f := by
  rw [State.reg_setRegThenFlag, if_pos rfl]

/-- The answer of a flag writer: the result, as the number m, in VX unless X is 0xF, and the flag in VF. -/
theorem exec_flag_answers {i : Instr} {s : State} {x : Nibble} {b g : Byte} {f : Bool} {m : Nat}
    (hi : exec i s = .next (s.setRegThenFlag x b f)) (hd : destsOf i = [x, flagReg]) (hw : writesOf i = [.v])
    (hb : b.toNat = m) (hf : flagByte f = g) :
    ∃ t, exec i s = .next t ∧ (x ≠ 0xF → (t.reg x).toNat = m) ∧ t.reg 0xF = g ∧
      s.regsSameBut t [x, 0xF] ∧ s.sameBut t [.v] := by
  obtain ⟨hregs, hcomps⟩ := exec_frame hi
  refine ⟨_, hi, fun hx => ?_, (s.reg_setRegThenFlag_flagReg x b f).trans hf, hd ▸ hregs, hw ▸ hcomps⟩
  rw [s.reg_setRegThenFlag_dest b f hx, hb]

theorem flagByte_decide (p : Prop) [Decidable p] : flagByte (decide p) = if p then 1#8 else 0#8 := by
  simp only [flagByte, decide_eq_true_eq]

/-- Settles O31: `carry` is the test of the unmasked sum. -/
theorem addRegistersSetsCarry : Obligations.AddRegistersSetsCarry :=
  fun x y s => exec_flag_answers (exec_addReg x y s) rfl rfl (BitVec.toNat_add _ _) (flagByte_decide _)

/-- The difference modulo 256, as 42_alu.md R168 and R169 write it. -/
theorem byte_sub_toNat (a b : Byte) : (a - b).toNat = (a.toNat + 256 - b.toNat) % 256 := by
  have hb := b.isLt
  rw [BitVec.toNat_sub]
  omega

/-- Settles O32: `notBorrow` is the test of the minuend against the subtrahend, which SUBN exchanges. -/
theorem subtractionsSetNotBorrow : Obligations.SubtractionsSetNotBorrow :=
  fun x y s =>
    ⟨exec_flag_answers (exec_subReg x y s) rfl rfl (byte_sub_toNat _ _) (flagByte_decide _),
      exec_flag_answers (exec_subnReg x y s) rfl rfl (byte_sub_toNat _ _) (flagByte_decide _)⟩

theorem flagByte_toNat (f : Bool) : (flagByte f).toNat = f.toNat := by
  cases f
  · rfl
  · rfl

theorem byte_shiftRight_one_toNat (a : Byte) : (a >>> 1).toNat = a.toNat / 2 := by
  rw [BitVec.toNat_ushiftRight, Nat.shiftRight_eq_div_pow]

theorem byte_shiftLeft_one_toNat (a : Byte) : (a <<< 1).toNat = 2 * a.toNat % 256 := by
  rw [BitVec.toNat_shiftLeft, Nat.shiftLeft_eq, Nat.mul_comm]

/-- A right shift shifts out bit 0 (42_alu.md R170). -/
theorem flagByte_shiftedOutRight_toNat (a : Byte) : (flagByte (shiftedOutRight a)).toNat = a.toNat % 2 := by
  rw [flagByte_toNat, shiftedOutRight, ← BitVec.testBit_toNat, Nat.toNat_testBit, Nat.pow_zero, Nat.div_one]

/-- A left shift shifts out bit 7, the highest of a byte (42_alu.md R171). -/
theorem flagByte_shiftedOutLeft_toNat (a : Byte) : (flagByte (shiftedOutLeft a)).toNat = a.toNat / 128 := by
  have ha := a.isLt
  rw [flagByte_toNat, shiftedOutLeft, ← BitVec.testBit_toNat, Nat.toNat_testBit]
  omega

/-- Settles O33: each result and each bit shifted out as a number, the flag written last. -/
theorem shiftsReportTheBitShiftedOut : Obligations.ShiftsReportTheBitShiftedOut := by
  intro x y s
  constructor
  · obtain ⟨t, ht, hx, hf, hframe⟩ :=
      exec_flag_answers (exec_shr x y s) rfl rfl (byte_shiftRight_one_toNat _) rfl
    exact ⟨t, ht, hx, hf ▸ flagByte_shiftedOutRight_toNat _, hframe⟩
  · obtain ⟨t, ht, hx, hf, hframe⟩ :=
      exec_flag_answers (exec_shl x y s) rfl rfl (byte_shiftLeft_one_toNat _) rfl
    exact ⟨t, ht, hx, hf ▸ flagByte_shiftedOutLeft_toNat _, hframe⟩

end Sys2Proof.Machine
end

section
/-! ## The display

What a sprite does to each cell and to VF, first for the canvas its rows are drawn on, then for the state
(43_display.md R190 to R196). The frames are those of the destinations and the components of each instruction
(`exec_frame`). -/

namespace Sys2Proof.Machine

/-- A lit cell is on the screen, since a cell off the grid reads unlit. -/
theorem State.on_screen_of_pixel {s : State} {p q : Nat} (h : s.pixel p q = true) : p < 64 ∧ q < 32 := by
  by_contra hoff
  exact Bool.false_ne_true ((Framebuffer.get_off s.fb p q hoff).symm.trans h)

/-! ### The bits of a sprite -/

/-- A set bit lies in the sprite's rectangle (43_display.md R192). -/
theorem State.rectangle_of_spriteBit {s : State} {x0 y0 n p q : Nat} (h : s.spriteBit x0 y0 n p q = true) :
    x0 ≤ p ∧ p < x0 + 8 ∧ y0 ≤ q ∧ q < y0 + n :=
  of_decide_eq_true (Bool.and_eq_true_iff.mp h).1

section
variable (s : State) (x0 y0 n p q : Nat)

/-- The sprite has no bit at or below the row after its last. -/
theorem State.spriteBit_of_le {q : Nat} (h : y0 + n ≤ q) : s.spriteBit x0 y0 n p q = false := by
  rw [Bool.eq_false_iff]
  intro hbit
  obtain ⟨-, -, -, hq⟩ := State.rectangle_of_spriteBit hbit
  omega

theorem State.spriteBit_zero : s.spriteBit x0 y0 0 p q = false := by
  rw [Bool.eq_false_iff]
  intro hbit
  obtain ⟨-, -, hlo, hhi⟩ := State.rectangle_of_spriteBit hbit
  exact hlo.not_gt hhi

/-- The last row of a sprite is the byte at its offset from I. -/
theorem State.spriteBit_last_row : s.spriteBit x0 y0 (n + 1) p (y0 + n) =
    (decide (x0 ≤ p ∧ p < x0 + 8) && rowPixel (s.readByte (s.indexed n)) (p - x0)) := by
  simp [State.spriteBit, rowPixel, State.indexed]

/-- One more row leaves the bits of every other row alone. -/
theorem State.spriteBit_succ_of_ne {q : Nat} (h : q ≠ y0 + n) :
    s.spriteBit x0 y0 (n + 1) p q = s.spriteBit x0 y0 n p q := by
  have hq : q < y0 + (n + 1) ↔ q < y0 + n := by omega
  simp only [State.spriteBit, hq]

/-- The bits of a sprite depend on I and on its n bytes only. -/
theorem State.spriteBit_congr {s u : State} (hi : u.i = s.i)
    (hb : ∀ r, r < n → u.readByte (s.i.toNat + r) = s.readByte (s.i.toNat + r)) :
    u.spriteBit x0 y0 n p q = s.spriteBit x0 y0 n p q := by
  by_cases hq : y0 ≤ q ∧ q < y0 + n
  · simp only [State.spriteBit, hi, hb (q - y0) (by omega)]
  · have hrect : ¬(x0 ≤ p ∧ p < x0 + 8 ∧ y0 ≤ q ∧ q < y0 + n) := fun h => hq h.2.2
    simp only [State.spriteBit, hrect, decide_false, Bool.false_and]

/-! ### The rows of a sprite, drawn -/

/-- Each cell on the screen is XORed with the sprite's bit there (43_display.md R191 to R193). -/
theorem State.get_drawRows : (s.drawRows x0 y0 n).fb.get p q =
    (s.pixel p q ^^ (decide (p < 64 ∧ q < 32) && s.spriteBit x0 y0 n p q)) := by
  induction n with
  | zero => simp [State.spriteBit_zero, State.pixel]
  | succ n ih =>
    rw [State.drawRows_succ, Canvas.get_drawRow, ih]
    by_cases hq : q = y0 + n
    · subst hq
      rw [State.spriteBit_of_le s x0 y0 n p le_rfl, State.spriteBit_last_row]
      simp [Bool.and_assoc]
    · rw [State.spriteBit_succ_of_ne s x0 y0 n p hq]
      simp [hq]

/-- A cell where the sprite has no bit is as before. -/
theorem State.get_drawRows_of_not_spriteBit {s : State} {x0 y0 n p q : Nat} (h : s.spriteBit x0 y0 n p q = false) :
    (s.drawRows x0 y0 n).fb.get p q = s.pixel p q := by
  rw [State.get_drawRows, h, Bool.and_false, Bool.xor_false]

/-- The draw is a collision exactly if a lit cell meets a set bit (43_display.md R191, R194): no row changes a cell
of a row drawn after it. -/
theorem State.collision_drawRows : (s.drawRows x0 y0 n).collision = true ↔
    ∃ p q, s.pixel p q = true ∧ s.spriteBit x0 y0 n p q = true := by
  induction n with
  | zero => simp [State.spriteBit_zero]
  | succ n ih =>
    have hrow (k : Nat) : (s.drawRows x0 y0 n).fb.get (x0 + k) (y0 + n) = s.pixel (x0 + k) (y0 + n) :=
      State.get_drawRows_of_not_spriteBit (State.spriteBit_of_le s x0 y0 n _ le_rfl)
    rw [State.drawRows_succ, Canvas.collision_drawRow, ih]
    simp only [hrow]
    constructor
    · rintro (⟨p, q, hlit, hbit⟩ | ⟨k, hk, hbit, hlit⟩)
      · obtain ⟨-, -, -, hq⟩ := State.rectangle_of_spriteBit hbit
        exact ⟨p, q, hlit, (State.spriteBit_succ_of_ne s x0 y0 n p hq.ne).trans hbit⟩
      · refine ⟨x0 + k, y0 + n, hlit, ?_⟩
        simp [State.spriteBit_last_row, hk, hbit]
    · rintro ⟨p, q, hlit, hbit⟩
      by_cases hq : q = y0 + n
      · subst hq
        rw [State.spriteBit_last_row, Bool.and_eq_true_iff, decide_eq_true_eq] at hbit
        obtain ⟨⟨hlo, hhi⟩, hbit⟩ := hbit
        refine .inr ⟨p - x0, by omega, hbit, ?_⟩
        rwa [Nat.add_sub_cancel' hlo]
      · exact .inl ⟨p, q, hlit, (State.spriteBit_succ_of_ne s x0 y0 n p hq).symm.trans hbit⟩

end

/-! ### The state after a sprite -/

theorem flagByte_eq_one_iff {f : Bool} : flagByte f = 1#8 ↔ f = true := by
  cases f with
  | false => decide
  | true => decide

section
variable (s : State) (yMod : Nat) (x y : Nibble) (n p q : Nat)

/-- Each cell on the screen is XORed with the sprite's bit there, the flag's write leaving the screen alone. -/
theorem State.pixel_drawSprite : (s.drawSprite yMod x y n).pixel p q =
    (s.pixel p q ^^ (decide (p < 64 ∧ q < 32) && s.spriteBit (s.spriteX x) (s.spriteY yMod y) n p q)) :=
  s.get_drawRows (s.spriteX x) (s.spriteY yMod y) n p q

theorem State.pixel_drawSprite_on_screen {p q : Nat} (hp : p < 64) (hq : q < 32) :
    (s.drawSprite yMod x y n).pixel p q =
      (s.pixel p q ^^ s.spriteBit (s.spriteX x) (s.spriteY yMod y) n p q) := by
  rw [State.pixel_drawSprite, decide_eq_true ⟨hp, hq⟩, Bool.true_and]

/-- A cell changes only where it is on the screen and the sprite has a bit (43_display.md R193). -/
theorem State.spriteBit_of_pixel_drawSprite_ne {s : State} {yMod : Nat} {x y : Nibble} {n p q : Nat}
    (h : (s.drawSprite yMod x y n).pixel p q ≠ s.pixel p q) :
    p < 64 ∧ q < 32 ∧ s.spriteBit (s.spriteX x) (s.spriteY yMod y) n p q = true := by
  rw [State.pixel_drawSprite] at h
  cases hlit : s.pixel p q with
  | false => simpa [hlit, and_assoc] using h
  | true => simpa [hlit, and_assoc] using h

/-- VF ends holding the collision of the drawn rows (43_display.md R191). -/
theorem State.flagReg_drawSprite : (s.drawSprite yMod x y n).reg 0xF =
    flagByte (s.drawRows (s.spriteX x) (s.spriteY yMod y) n).collision :=
  State.reg_setReg_same _ flagReg _

/-- VF is 1 exactly if a lit cell meets a set bit (43_display.md R191). -/
theorem State.flagReg_drawSprite_eq_one_iff : (s.drawSprite yMod x y n).reg 0xF = 1#8 ↔
    ∃ p q, p < 64 ∧ q < 32 ∧ s.pixel p q = true ∧
      s.spriteBit (s.spriteX x) (s.spriteY yMod y) n p q = true := by
  rw [State.flagReg_drawSprite, flagByte_eq_one_iff, State.collision_drawRows]
  constructor
  · rintro ⟨p, q, hlit, hbit⟩
    obtain ⟨hp, hq⟩ := State.on_screen_of_pixel hlit
    exact ⟨p, q, hp, hq, hlit, hbit⟩
  · rintro ⟨p, q, -, -, hlit, hbit⟩
    exact ⟨p, q, hlit, hbit⟩

theorem State.flagReg_drawSprite_eq_zero_or_one :
    (s.drawSprite yMod x y n).reg 0xF = 0#8 ∨ (s.drawSprite yMod x y n).reg 0xF = 1#8 :=
  State.reg_setFlag_flagReg _ _

/-- VF is 0 if the set bits on the screen meet unlit cells only (43_display.md R193). -/
theorem State.flagReg_drawSprite_eq_zero {s : State} {yMod : Nat} {x y : Nibble} {n : Nat}
    (h : ∀ p q, p < 64 → q < 32 → s.spriteBit (s.spriteX x) (s.spriteY yMod y) n p q = true →
      s.pixel p q = false) : (s.drawSprite yMod x y n).reg 0xF = 0#8 := by
  refine (s.flagReg_drawSprite_eq_zero_or_one yMod x y n).resolve_right fun hone => ?_
  obtain ⟨p, q, hp, hq, hlit, hbit⟩ := (s.flagReg_drawSprite_eq_one_iff yMod x y n).mp hone
  exact Bool.false_ne_true ((h p q hp hq hbit).symm.trans hlit)

/-- A cell on the screen is turned off exactly if it was lit and the sprite has a bit there (43_display.md R194). -/
theorem State.turned_off_iff {p q : Nat} (hp : p < 64) (hq : q < 32) :
    s.pixel p q = true ∧ (s.drawSprite yMod x y n).pixel p q = false ↔
      s.pixel p q = true ∧ s.spriteBit (s.spriteX x) (s.spriteY yMod y) n p q = true := by
  rw [s.pixel_drawSprite_on_screen yMod x y n hp hq]
  refine and_congr_right fun hlit => ?_
  rw [hlit, Bool.true_xor, Bool.not_eq_false']

/-- VF is 1 exactly if the draw turns off a lit cell (43_display.md R194). -/
theorem State.flagReg_drawSprite_eq_one_iff_turned_off : (s.drawSprite yMod x y n).reg 0xF = 1#8 ↔
    ∃ p q, p < 64 ∧ q < 32 ∧ s.pixel p q = true ∧ (s.drawSprite yMod x y n).pixel p q = false :=
  (s.flagReg_drawSprite_eq_one_iff yMod x y n).trans <| exists₂_congr fun _ _ =>
    and_congr_right fun hp => and_congr_right fun hq => (s.turned_off_iff yMod x y n hp hq).symm

/-- A sprite that starts below the screen changes no cell and is no collision (43_display.md R193, R196). -/
theorem State.drawSprite_below_screen {s : State} {yMod : Nat} {y : Nibble} (h : 32 ≤ s.spriteY yMod y)
    (x : Nibble) (n : Nat) : (∀ p q, (s.drawSprite yMod x y n).pixel p q = s.pixel p q) ∧
      (s.drawSprite yMod x y n).reg 0xF = 0#8 := by
  have hbelow {p q : Nat} (hq : q < 32) : s.spriteBit (s.spriteX x) (s.spriteY yMod y) n p q ≠ true := by
    intro hbit
    obtain ⟨-, -, hrow, -⟩ := State.rectangle_of_spriteBit hbit
    exact hrow.not_gt (hq.trans_le h)
  constructor
  · intro p q
    by_contra hne
    obtain ⟨-, hq, hbit⟩ := State.spriteBit_of_pixel_drawSprite_ne hne
    exact hbelow hq hbit
  · exact State.flagReg_drawSprite_eq_zero fun p q _ hq hbit => absurd hbit (hbelow hq)

/-- The modulus of VY matters through the start row only (43_display.md R196). -/
theorem State.drawSprite_congr_spriteY {s : State} {m k : Nat} {y : Nibble} (h : s.spriteY m y = s.spriteY k y)
    (x : Nibble) (n : Nat) : s.drawSprite m x y n = s.drawSprite k x y n := by
  simp only [State.drawSprite, h]

end

/-! ### The statements -/

/-- Settles O36: the blank framebuffer has no lit cell, and CLS writes no other component. -/
theorem clearScreenUnlightsEveryCell : Obligations.ClearScreenUnlightsEveryCell :=
  fun x y s => ⟨_, exec_cls x y s, Framebuffer.get_blank, instructionsWriteOnlyTheirComponents (.cls x y) s _ rfl⟩

/-- Settles O37, from the induction over the rows for cells and for the collision. -/
theorem drawXorsTheSprite : Obligations.DrawXorsTheSprite :=
  fun x y n s => ⟨_, exec_drw x y n s, fun _ _ => s.pixel_drawSprite_on_screen drawYMod x y n.val,
    s.flagReg_drawSprite_eq_one_iff drawYMod x y n.val, s.flagReg_drawSprite_eq_zero_or_one drawYMod x y n.val,
    exec_frame (exec_drw x y n s)⟩

/-- Settles O38: VF holds a flag, so it is 0 where it is not 1. -/
theorem collisionMeansALitCellTurnedOff : Obligations.CollisionMeansALitCellTurnedOff := by
  intro x y n s
  have hone := s.flagReg_drawSprite_eq_one_iff_turned_off drawYMod x y n.val
  refine ⟨_, exec_drw x y n s, hone.mpr, fun hnone => ?_⟩
  exact (s.flagReg_drawSprite_eq_zero_or_one drawYMod x y n.val).resolve_right (mt hone.mp hnone)

/-- Settles O39: a changed cell is on the screen and has a bit of the sprite, which lies in the rectangle. -/
theorem drawIsClippedAtTheEdges : Obligations.DrawIsClippedAtTheEdges := by
  refine fun x y n s => ⟨_, exec_drw x y n s, fun p q hne => ?_, fun hy => State.drawSprite_below_screen hy x n.val,
    State.flagReg_drawSprite_eq_zero⟩
  obtain ⟨hp, hq, hbit⟩ := State.spriteBit_of_pixel_drawSprite_ne hne
  obtain ⟨hxlo, hxhi, hylo, hyhi⟩ := State.rectangle_of_spriteBit hbit
  exact ⟨hxlo, hxhi, hp, hylo, hyhi, hq⟩

/-- Settles O40: both draws XOR in the same bits, so a cell is lit before the second draw at a set bit exactly if the
first draw lit it. -/
theorem drawingTwiceRestoresTheFramebuffer : Obligations.DrawingTwiceRestoresTheFramebuffer := by
  intro x y n s t u w hs hi hbytes hx hy hfb hu
  cases hs
  cases hu
  have hcol : u.spriteX x = s.spriteX x := congrArg (fun b : Byte => b.toNat % 64) hx
  have hrow : u.spriteY drawYMod y = s.spriteY drawYMod y := congrArg (fun b : Byte => b.toNat % drawYMod) hy
  have hbit (p q : Nat) : u.spriteBit (u.spriteX x) (u.spriteY drawYMod y) n.val p q =
      s.spriteBit (s.spriteX x) (s.spriteY drawYMod y) n.val p q := by
    rw [hcol, hrow, State.spriteBit_congr _ _ _ p q hi hbytes]
  constructor
  · intro p q
    rw [State.pixel_drawSprite, hbit, hfb, State.pixel_drawSprite, Bool.xor_assoc, Bool.xor_self, Bool.xor_false]
  · rw [State.flagReg_drawSprite_eq_one_iff]
    refine exists₂_congr fun p q => and_congr_right fun hp => and_congr_right fun hq => ?_
    rw [hbit, hfb, State.pixel_drawSprite_on_screen s drawYMod x y n.val hp hq]
    cases s.pixel p q with
    | false => simp
    | true => simp

/-- Settles O41: a start row below 32 is the same under both moduli, and one that is not lies below the screen. -/
theorem drawYModulusMattersBelowTheScreenOnly : Obligations.DrawYModulusMattersBelowTheScreenOnly := by
  refine fun x y n s => ⟨fun hy => State.drawSprite_congr_spriteY ?_ x n.val, fun hy => ?_⟩
  · have hmod : (s.reg y).toNat % 64 = (s.reg y).toNat % 32 := by omega
    exact hmod
  · obtain ⟨hcells, hflag⟩ := State.drawSprite_below_screen (yMod := 64) hy x n.val
    exact ⟨hcells, hflag, fun _ _ => s.pixel_drawSprite_on_screen 32 x y n.val⟩

end Sys2Proof.Machine
end

section
/-! ## Keys and timers

The skips and the wait on a key, and the loads and the countdown of the timers (44_keys_timers.md R210 to R216). The
frames are those of the components of each instruction (O53) or, as the wait on a key writes only one of its two, of
the single write a handler does. -/

namespace Sys2Proof.Machine

/-! ### The countdown over several cycles -/

/-- A number that loses one, but not below 0, in each of k steps. -/
theorem eq_sub_of_forall_succ_eq_pred {a : Nat → Nat} (k : Nat) (h : ∀ j < k, a (j + 1) = a j - 1) :
    a k = a 0 - k := by
  induction k with
  | zero => rfl
  | succ k ih =>
    calc a (k + 1) = a k - 1 := h k k.lt_succ_self
      _ = a 0 - k - 1 := by rw [ih fun j hj => h j (Nat.lt_succ_of_lt hj)]
      _ = a 0 - (k + 1) := Nat.sub_sub _ _ _

/-- The cycle after a change of the keys, which are no part of the fetch or of a timer, ticks the timers it does not
write. -/
theorem step_withKeys_ticks {s t : State} {ks : Vector Bool 16} (h : step { s with keys := ks } = .next t) :
    ((∀ x, s.fetchInstr ≠ .ok (.ldDtVx x)) → t.dt.toNat = s.dt.toNat - 1) ∧
    ((∀ x, s.fetchInstr ≠ .ok (.ldStVx x)) → t.st.toNat = s.st.toNat - 1) := by
  obtain ⟨u, hu, -, hdt, -, hst⟩ := timersTickInEveryCycle { s with keys := ks }
  obtain rfl : t = u := Host.Outcome.next.inj (h.symm.trans hu)
  exact ⟨hdt, hst⟩

/-- Settles O12: each of the k cycles takes one from the timer, unless it is 0. -/
theorem unwrittenTimersCountDown : Obligations.UnwrittenTimersCountDown := by
  refine fun k f ks hstep => ⟨fun hdt => ?_, fun hst => ?_⟩
  · exact eq_sub_of_forall_succ_eq_pred (a := fun j => (f j).dt.toNat) k fun j hj =>
      (step_withKeys_ticks (hstep j hj)).1 (hdt j hj)
  · exact eq_sub_of_forall_succ_eq_pred (a := fun j => (f j).st.toNat) k fun j hj =>
      (step_withKeys_ticks (hstep j hj)).2 (hst j hj)

/-! ### The keys -/

/-- A key number fits in a byte. -/
theorem byte_ofNat_nibble_toNat (k : Nibble) : (BitVec.ofNat 8 k.val).toNat = k.val := by
  rw [BitVec.toNat_ofNat]
  omega

/-- The step back of the key wait, modulo 4096 (10_state.md R33). -/
theorem State.setPc_sub_two_pc_toNat (s : State) : (s.setPc (s.pc - 2#16)).pc.toNat = (s.pc.toNat + 4094) % 4096 := by
  rw [State.setPc_pc_toNat, BitVec.toNat_sub, BitVec.toNat_ofNat]
  omega

/-- A state that a graft of any other component of s leaves as it is differs from s in the listed components only. -/
theorem State.sameBut_of_graft_eq {s t : State} {cs : List Component} (h : ∀ c, c ∉ cs → t.graft c s = t) :
    s.sameBut t cs :=
  fun c hc => h c hc ▸ s.sameOn_graft t c

theorem State.sameBut_setReg (s : State) (x : Nibble) (b : Byte) : s.sameBut (s.setReg x b) [.v] :=
  State.sameBut_of_graft_eq fun _ hc => by rw [State.setReg_graft s s (List.ne_of_not_mem_cons hc), State.graft_self]

theorem State.sameBut_setPc (s : State) (a : Word) : s.sameBut (s.setPc a) [.pc] :=
  State.sameBut_of_graft_eq fun _ hc => by rw [State.setPc_graft s s (List.ne_of_not_mem_cons hc), State.graft_self]

/-- Settles O43: the least pressed key is what `firstKey` finds; the frames are those of the one write the handler
does in each case. -/
theorem waitForKeyTakesTheLeastKeyOrRepeats : Obligations.WaitForKeyTakesTheLeastKeyOrRepeats := by
  refine fun x s => ⟨fun k hk hlow => ?_, fun hnone => ?_⟩
  · have hfirst : s.firstKey = some k := (s.firstKey_eq_some_iff k).mpr ⟨hk, hlow⟩
    refine ⟨_, exec_ldVxK_of_some x s hfirst, ?_, s.regsSameBut_setReg x _, s.sameBut_setReg x _⟩
    rw [State.reg_setReg_same, byte_ofNat_nibble_toNat]
  · have hfirst : s.firstKey = none := s.firstKey_eq_none_iff.mpr hnone
    exact ⟨_, exec_ldVxK_of_none x s hfirst, s.setPc_sub_two_pc_toNat, s.sameBut_setPc _⟩

/-- The answer of an instruction that skips unless p holds and writes pc only. -/
theorem exec_skip_unless_answers {i : Instr} {s : State} {c : Bool} {p : Prop} [Decidable p]
    (hi : exec i s = .next (s.skipIf c)) (hw : writesOf i = [.pc]) (hc : c = true ↔ ¬p) :
    ∃ t, exec i s = .next t ∧ s.sameBut t [.pc] ∧
      t.pc.toNat = if p then s.pc.toNat else (s.pc.toNat + 2) % 4096 := by
  rw [← ite_not]
  exact exec_skip_answers hi hw hc

/-- Settles O42: both skips test the key `keyOperand`, SKNP its negation. -/
theorem keySkipsTestTheMaskedKey : Obligations.KeySkipsTestTheMaskedKey :=
  fun x y s => ⟨exec_skip_answers (exec_skp x y s) rfl Iff.rfl,
    exec_skip_unless_answers (exec_sknp x y s) rfl Bool.not_iff_not⟩

/-! ### The loads of the timers -/

/-- Settles O44: the end of the cycle takes one from the timer that the handler leaves. -/
theorem timerReadsAndWrites : Obligations.TimerReadsAndWrites := by
  refine fun x s => ⟨⟨_, exec_ldVxDt x s, State.reg_setReg_same s x s.dt, s.regsSameBut_setReg x s.dt,
      s.sameBut_setReg x s.dt, State.endCycle_dt_toNat _⟩, ?_, ?_⟩
  · exact ⟨_, exec_ldDtVx x s, rfl, instructionsWriteOnlyTheirComponents (.ldDtVx x) s _ rfl,
      State.endCycle_dt_toNat _⟩
  · exact ⟨_, exec_ldStVx x s, rfl, instructionsWriteOnlyTheirComponents (.ldStVx x) s _ rfl,
      State.endCycle_st_toNat _⟩

end Sys2Proof.Machine
end

section
/-! ## Index register and memory

What the handlers of 45_index_memory.md leave in I, in the bytes at I and up, and in the V registers (R230 to R236).
The frames are those of the components of each instruction (O53). -/

namespace Sys2Proof.Machine

/-! ### The writes of I -/

/-- Settles O45: NNN is widened with zero bits. -/
theorem loadIndexTakesTheAddress : Obligations.LoadIndexTakesTheAddress :=
  fun nnn s => ⟨_, exec_ldI nnn s, addrOperand_toNat nnn, instructionsWriteOnlyTheirComponents (.ldI nnn) s _ rfl⟩

/-- Settles O46: five times a byte is below 65536, so only the sum of ADD I is reduced. -/
theorem indexArithmetic : Obligations.IndexArithmetic := by
  refine fun x s => ⟨⟨_, exec_addI x s, ?_, instructionsWriteOnlyTheirComponents (.addI x) s _ rfl⟩,
    ⟨_, exec_ldF x s, ?_, instructionsWriteOnlyTheirComponents (.ldF x) s _ rfl⟩⟩
  · rw [State.setIndex_i, BitVec.toNat_add, State.regWord_toNat]
  · have hx := (s.reg x).isLt
    rw [State.setIndex_i, BitVec.toNat_mul, BitVec.toNat_ofNat, State.regWord_toNat]
    omega

/-! ### The decimal digits -/

theorem hundreds_toNat (b : Byte) : (hundreds b).toNat = b.toNat / 100 := BitVec.toNat_udiv

theorem tens_toNat (b : Byte) : (tens b).toNat = b.toNat / 10 % 10 := by
  rw [tens, BitVec.toNat_umod, BitVec.toNat_udiv]
  rfl

theorem units_toNat (b : Byte) : (units b).toNat = b.toNat % 10 := BitVec.toNat_umod

theorem State.memSameOutside_writeBytes (s : State) (a : Nat) (bs : List Byte) :
    s.memSameOutside (s.writeBytes a bs) a bs.length :=
  fun c hc => State.readByte_writeBytes_outside bs s a c hc

/-- Three stored bytes are read back, as they do not wrap onto each other. -/
theorem State.readByte_writeBytes_three {s : State} (hw : s.mem.wf = true) (a : Nat) (b c d : Byte) :
    (s.writeBytes a [b, c, d]).readByte a = b ∧ (s.writeBytes a [b, c, d]).readByte (a + 1) = c ∧
      (s.writeBytes a [b, c, d]).readByte (a + 2) = d := by
  have hlen : 3 ≤ memSize := by decide
  exact ⟨State.readByte_writeBytes_inside [b, c, d] s a 0 hw hlen (Nat.zero_lt_succ 2),
    State.readByte_writeBytes_inside [b, c, d] s a 1 hw hlen (Nat.one_lt_succ_succ 1),
    State.readByte_writeBytes_inside [b, c, d] s a 2 hw hlen (Nat.lt_succ_self 2)⟩

/-- Settles O47: the hundreds digit is at most 2 since a byte is below 300. -/
theorem bcdStoreWritesThreeDigits : Obligations.BcdStoreWritesThreeDigits := by
  intro x s hw
  obtain ⟨h0, h1, h2⟩ := State.readByte_writeBytes_three hw (s.indexed 0) (hundreds (s.reg x)) (tens (s.reg x))
    (units (s.reg x))
  have hhundreds := (congrArg BitVec.toNat h0).trans (hundreds_toNat _)
  refine ⟨_, exec_ldB x s, hhundreds, (congrArg BitVec.toNat h1).trans (tens_toNat _),
    (congrArg BitVec.toNat h2).trans (units_toNat _), ?_, s.memSameOutside_writeBytes _ _,
    instructionsWriteOnlyTheirComponents (.ldB x) s _ rfl⟩
  have hx := (s.reg x).isLt
  omega

/-! ### The block moves -/

/-- The block of V0 to VX lies in X + 1 bytes from I on. -/
theorem State.memSameOutside_storeRegs (s : State) (x : Nibble) :
    s.memSameOutside (s.storeRegs (regsUpTo x)) (s.indexed 0) (x.val + 1) := by
  intro c hc
  refine State.readByte_storeRegs_outside _ s c fun k hk => ?_
  have hkx : k ≤ x := (mem_regsUpTo x k).mp hk
  exact hc k.val (Nat.lt_succ_of_le hkx)

/-- Settles O48: the registers of the block go to different addresses, as there are at most 16 of them. -/
theorem registerDumpStoresV0ToVX : Obligations.RegisterDumpStoresV0ToVX :=
  fun x s hw => ⟨_, exec_ldMemVx x s,
    fun k hk => State.readByte_storeRegs_inside _ s k hw (nodup_regsUpTo x) ((mem_regsUpTo x k).mpr hk),
    s.memSameOutside_storeRegs x, instructionsWriteOnlyTheirComponents (.ldMemVx x) s _ rfl⟩

/-- Settles O49: a register is loaded exactly if it is in the block. -/
theorem registerLoadFillsV0ToVX : Obligations.RegisterLoadFillsV0ToVX := by
  refine fun x s => ⟨_, exec_ldVxMem x s, fun k hk => ?_, fun k hk => ?_,
    instructionsWriteOnlyTheirComponents (.ldVxMem x) s _ rfl⟩
  · rw [State.reg_loadRegs, if_pos ((mem_regsUpTo x k).mpr hk)]
  · rw [State.reg_loadRegs, if_neg fun hmem => not_le.mpr hk ((mem_regsUpTo x k).mp hmem)]

/-- The addresses at the offsets from I depend on I only. -/
theorem State.indexed_congr {s u : State} (h : u.i = s.i) (k : Nat) : u.indexed k = s.indexed k :=
  congrArg (fun a : Word => a.toNat + k) h

/-- Settles O50: I is the same at the dump, after it and at the load, so the load meets the bytes of the dump. -/
theorem dumpThenLoadRestoresRegisters : Obligations.DumpThenLoadRestoresRegisters := by
  intro x s t u w hw hdump hi hkept hload k hk
  obtain ⟨t', ht, hstored, -, hframe⟩ := registerDumpStoresV0ToVX x s hw
  obtain rfl : t = t' := Host.Outcome.next.inj (hdump.symm.trans ht)
  obtain ⟨w', hw', hloaded, -, -⟩ := registerLoadFillsV0ToVX x u
  obtain rfl : w = w' := Host.Outcome.next.inj (hload.symm.trans hw')
  have hti : t.i = s.i := hframe .i (by decide)
  calc w.reg k = u.readByte (u.indexed k.val) := hloaded k hk
    _ = u.readByte (t.indexed k.val) := by rw [State.indexed_congr hi]
    _ = t.readByte (t.indexed k.val) := hkept k.val hk
    _ = t.readByte (s.indexed k.val) := by rw [State.indexed_congr hti]
    _ = s.reg k := hstored k hk

end Sys2Proof.Machine
end

section
/-! ## The environment

What the ROM loader and the input collaborator keep, and what the display collaborator reads (60_exceptions.md R260,
R263). -/

namespace Sys2Proof.Machine

/-! ### The invariant -/

/-- The invariant asks of the memory its canonical form only, so a canonical memory may replace it. -/
theorem State.Inv.withMem {s : State} {m : Memory} (h : s.Inv) (hm : m.wf = true) :
    ({ s with mem := m } : State).Inv := by
  obtain ⟨-, hpc, hst⟩ := h
  exact ⟨hm, hpc, hst⟩

theorem State.Inv.writeBytes {s : State} (h : s.Inv) (a : Nat) (bs : List Byte) : (s.writeBytes a bs).Inv := by
  have hm : s.mem.wf = true := h.1
  rw [State.writeBytes_eq]
  exact h.withMem (State.wf_writeBytes bs s a hm)

theorem State.Inv.setKey {s : State} (h : s.Inv) (k : Nibble) (p : Bool) : (s.setKey k p).Inv := h

/-- Settles O17: the loader stores bytes and nothing else, and the invariant does not speak of the keys. -/
theorem environmentKeepsInvariant : Obligations.EnvironmentKeepsInvariant :=
  fun _ hs => ⟨fun rom => hs.writeBytes romBase rom, hs.setKey⟩

/-! ### The readout -/

theorem pixelValue_eq (pixelBits : Nat) (lit : Bool) :
    pixelValue pixelBits lit = if lit then BitVec.ofNat pixelBits (2 ^ pixelBits - 1) else 0#pixelBits := by
  rw [pixelValue, ← BitVec.toNat_allOnes, BitVec.ofNat_toNat, BitVec.setWidth_eq]

theorem State.length_readout (s : State) (pixelBits : Nat) : (s.readout pixelBits).length = 2048 := by
  rw [State.readout, List.length_map, List.length_range]

/-- Row and column are the quotient and the remainder of an index by the width of the screen. -/
theorem State.getElem?_readout (s : State) (pixelBits : Nat) {j : Nat} (h : j < 2048) :
    (s.readout pixelBits)[j]? = some (pixelValue pixelBits (s.pixel (j % 64) (j / 64))) := by
  rw [State.readout, List.getElem?_map, List.getElem?_range h, Option.map_some]

/-- Settles O21: 64 y + x has quotient y and remainder x by 64, as x is below 64. -/
theorem readoutIsRowMajor : Obligations.ReadoutIsRowMajor := by
  refine fun pixelBits s => ⟨s.length_readout pixelBits, fun x y hx hy => ?_⟩
  have hindex : y * 64 + x < 2048 := by omega
  have hcol : (y * 64 + x) % 64 = x := by omega
  have hrow : (y * 64 + x) / 64 = y := by omega
  rw [State.getElem?_readout s pixelBits hindex, hcol, hrow, pixelValue_eq]

end Sys2Proof.Machine
end

section
/-! ## Construction, the ROM loader and the runs

Where the loader puts a ROM, and what holds of every state a run reaches (70_reset_and_hazards.md R283 to R285). -/

namespace Sys2Proof.Machine

/-! ### The ROM loader -/

/-- Bytes are stored in order, so a list may be cut anywhere. -/
theorem State.writeBytes_append (bs cs : List Byte) (s : State) (a : Nat) :
    s.writeBytes a (bs ++ cs) = (s.writeBytes a bs).writeBytes (a + bs.length) cs := by
  induction bs generalizing s a with
  | nil => rfl
  | cons b bs ih =>
    simp only [List.cons_append, State.writeBytes, ih, List.length_cons]
    rw [Nat.add_assoc, Nat.add_comm 1]

/-- A stored byte is read back unless a later one goes to its address, be the list longer than the memory or not
(70_reset_and_hazards.md R283). The bytes before it do not matter, and those from it on do not wrap onto it. -/
theorem State.readByte_writeBytes_of_length_le {s : State} {bs : List Byte} (hw : s.mem.wf = true) (a : Nat) {k : Nat}
    (hk : k < bs.length) (hlast : bs.length ≤ k + memSize) : (s.writeBytes a bs).readByte (a + k) = bs[k] := by
  have htake : (bs.take k).length = k := List.length_take_of_le hk.le
  have hsplit : s.writeBytes a bs = (s.writeBytes a (bs.take k)).writeBytes (a + k) (bs.drop k) := by
    conv_lhs => rw [← List.take_append_drop k bs, State.writeBytes_append, htake]
  have hlen : (bs.drop k).length ≤ memSize := List.length_drop ▸ Nat.sub_le_iff_le_add'.mpr hlast
  have hpos : 0 < (bs.drop k).length := List.length_drop ▸ Nat.sub_pos_of_lt hk
  calc (s.writeBytes a bs).readByte (a + k)
    _ = (bs.drop k)[0] := by
      rw [hsplit]
      exact State.readByte_writeBytes_inside _ _ (a + k) 0 (State.wf_writeBytes _ s a hw) hlen hpos
    _ = bs[k] := List.getElem_drop

theorem State.sameBut_writeBytes (s : State) (a : Nat) (bs : List Byte) : s.sameBut (s.writeBytes a bs) [.mem] :=
  State.sameBut_of_graft_eq fun _ hc => by
    rw [State.writeBytes_graft s s (List.ne_of_not_mem_cons hc), State.graft_self]

/-- Settles O19: the loader stores the bytes of the ROM in order, at rising addresses from 0x200. -/
theorem loaderPlacesRom : Obligations.LoaderPlacesRom :=
  fun s rom hw => ⟨fun _ hj hlast => State.readByte_writeBytes_of_length_le hw romBase hj hlast,
    s.memSameOutside_writeBytes romBase rom, s.sameBut_writeBytes romBase rom⟩

/-! ### The runs -/

/-- Every event answers a next state: a cycle never stops, and a key change is no step of the machine. -/
theorem State.after_answers (s : State) (e : Event) : ∃ t, s.after e = .next t := by
  cases e with
  | cycle => exact step_answers s
  | setKey k p => exact ⟨s.setKey k p, rfl⟩

theorem State.run_cons_of_after {s t : State} {e : Event} (h : s.after e = .next t) (es : List Event) :
    s.run (e :: es) = t.run es := by
  simp only [State.run, h]

theorem State.run_answers (es : List Event) (s : State) : ∃ t, s.run es = .next t := by
  induction es generalizing s with
  | nil => exact ⟨s, rfl⟩
  | cons e es ih =>
    obtain ⟨t, ht⟩ := s.after_answers e
    rw [State.run_cons_of_after ht]
    exact ih t

theorem State.Inv.after {s t : State} {e : Event} (hs : s.Inv) (h : s.after e = .next t) : t.Inv := by
  cases e with
  | cycle => exact cycleKeepsInvariant s t hs h
  | setKey k p =>
    obtain rfl : s.setKey k p = t := Host.Outcome.next.inj h
    exact hs.setKey k p

theorem Reachable.inv {s : State} (h : Reachable s) : s.Inv := by
  induction h with
  | boot rom => exact constructionMeetsInvariant.writeBytes romBase rom
  | event s t e _ h ih => exact ih.after h

/-- Settles O18: an induction over the events for the answers, one over the reachable states for the invariant. -/
theorem runsNeverStopAndKeepInvariant : Obligations.RunsNeverStopAndKeepInvariant :=
  ⟨State.run_answers, fun _ => Reachable.inv⟩

end Sys2Proof.Machine
end
